-- ==== Sys2Proof/Word.lean ====
section
/-! DEFINITION. The word types of the block. Bit 0 of a byte or word is its least significant bit (R7, R33). -/

namespace Sys2Proof

/-- One byte: a byte of `image`, a command byte, a byte of a command frame (R15, R54, R60). -/
abbrev Byte := BitVec 8

/-- A host command word or a response word, 32 bits (R50, R58). -/
abbrev CmdWord := BitVec 32

/-- The bus address of the device, `ADDR_BITS` = 7 bits, any value (R3, R14). -/
abbrev DevAddr := BitVec 7

/-- A staging word as a number. Its width `WORD_BITS` is a parameter of the block (R3, R62) and its byte order is not
observable, so that "the word is a number" (R32, D36); that it is below `2 ^ WORD_BITS` is part of the model's
invariant. -/
abbrev WideWord := Nat

end Sys2Proof
end

