-- ==== Sys2Proof/Syntax.lean ====
section
/-! DEFINITION. The seven operations of the block, one constructor for each row of spec/opcode_table.json, operands in
the order of the written form (R65). -/

namespace Sys2Proof

/-- A host command. Coordinates and sizes are the non-negative integers the rules compute with (R7); that they fit
their fields of the command word is `Instr.WellFormed`. -/
inductive Instr where
  /-- `INIT width, height, addr`, format G (R55, R80). -/
  | init (width height : Nat) (addr : DevAddr)
  /-- `LOCATE x, y`, format P with `v` reserved (R52, R70). -/
  | locate (x y : Nat)
  /-- `SETPIX x, y, v`, format P (R52, R83). -/
  | setpix (x y : Nat) (v : Bool)
  /-- `GETPIX x, y`, format P with `v` reserved (R52, R85). -/
  | getpix (x y : Nat)
  /-- `FILL v`, format V (R53, R86). -/
  | fill (v : Bool)
  /-- `SENDCMD cmd`, format B (R54, R100). -/
  | sendcmd (cmd : Byte)
  /-- `FLUSH`, format N (R51, R110). -/
  | flush
  deriving DecidableEq, Repr

end Sys2Proof
end

