-- ==== Sys2Proof/WellFormed.lean ====
section
/-! DEFINITION. Which instructions have an encoding: every operand fits its field of the command word (R52, R55). -/

namespace Sys2Proof

/-- A coordinate fits its 12-bit field (`COORD_BITS` = 12, R3, R52). -/
abbrev FitsCoord (n : Nat) : Prop := n < 4096

/-- A width fits its 12-bit field and a height its 9-bit field (R55). -/
abbrev FitsGeometry (width height : Nat) : Prop := width < 4096 ∧ height < 512

/-- The operands of the instruction fit the fields of its format (R51 to R55). -/
def Instr.wellFormed (i : Instr) : Bool :=
  match i with
  | .init width height _ => decide (FitsGeometry width height)
  | .locate x y => decide (FitsCoord x ∧ FitsCoord y)
  | .setpix x y _ => decide (FitsCoord x ∧ FitsCoord y)
  | .getpix x y => decide (FitsCoord x ∧ FitsCoord y)
  | .fill _ => true
  | .sendcmd _ => true
  | .flush => true

/-- The instruction has an encoding. -/
abbrev Instr.WellFormed (i : Instr) : Prop := i.wellFormed = true

end Sys2Proof
end

