-- ==== Sys2Proof/Decode.lean ====
section
/-! DEFINITION. The decoder of the 32-bit host command word and, after it, the encoder (R50 to R57). -/

namespace Sys2Proof

/-- Why a command word is illegal (R57). -/
inductive Illegal where
  /-- The opcode is `0x0` or `0x8` to `0xF`. -/
  | reservedOpcode
  /-- A bit that the word's format marks "reserved, zero" is one. -/
  | reservedBits
  deriving DecidableEq, Repr

/-- The slice `w[lo+len-1 : lo]` of a command word (R7). -/
def slice (w : CmdWord) (lo len : Nat) : BitVec len := w.extractLsb' lo len

/-- The opcode `opc`, bits 31:28 (R50). -/
def opcField (w : CmdWord) : BitVec 4 := slice w 28 4

/-- The field `x` of format P and `width` of format G, bits 11:0 (R52, R55). -/
def lowField (w : CmdWord) : BitVec 12 := slice w 0 12

/-- The field `y` of format P, bits 23:12 (R52). -/
def yField (w : CmdWord) : BitVec 12 := slice w 12 12

/-- The field `height` of format G, bits 20:12 (R55). -/
def heightField (w : CmdWord) : BitVec 9 := slice w 12 9

/-- The field `addr` of format G, bits 27:21 (R55). -/
def addrField (w : CmdWord) : DevAddr := slice w 21 7

/-- The field `v` of formats P and V, bit 24 (R52, R53). -/
def vField (w : CmdWord) : Bool := slice w 24 1 == 1#1

/-- The field `cmd` of format B, bits 7:0 (R54). -/
def cmdField (w : CmdWord) : Byte := slice w 0 8

/-- The reserved bits of format N are zero (R51). -/
def reservedZeroN (w : CmdWord) : Bool := slice w 0 28 == 0#28

/-- The reserved bits of format P are zero where `v` is a field (R52, SETPIX). -/
def reservedZeroP (w : CmdWord) : Bool := slice w 25 3 == 0#3

/-- The reserved bits of format P are zero where bit 24 is reserved as well (R52, LOCATE and GETPIX). -/
def reservedZeroPNoV (w : CmdWord) : Bool := slice w 24 4 == 0#4

/-- The reserved bits of format V are zero (R53). -/
def reservedZeroV (w : CmdWord) : Bool := slice w 25 3 == 0#3 && slice w 0 24 == 0#24

/-- The reserved bits of format B are zero (R54). -/
def reservedZeroB (w : CmdWord) : Bool := slice w 8 20 == 0#20

/-- A word whose format's reserved bits are zero is the instruction, any other is illegal (R57). -/
def ifReservedZero (zero : Bool) (i : Instr) : Except Illegal Instr :=
  if zero then .ok i else .error .reservedBits

/-- The decoder: total on every 32-bit word, by the opcode map (R56) and the formats (R51 to R55); format G has no
reserved bits. -/
def decode (w : CmdWord) : Except Illegal Instr :=
  match (opcField w).toNat with
  | 1 => .ok (.init (lowField w).toNat (heightField w).toNat (addrField w))
  | 2 => ifReservedZero (reservedZeroPNoV w) (.locate (lowField w).toNat (yField w).toNat)
  | 3 => ifReservedZero (reservedZeroP w) (.setpix (lowField w).toNat (yField w).toNat (vField w))
  | 4 => ifReservedZero (reservedZeroPNoV w) (.getpix (lowField w).toNat (yField w).toNat)
  | 5 => ifReservedZero (reservedZeroV w) (.fill (vField w))
  | 6 => ifReservedZero (reservedZeroB w) (.sendcmd (cmdField w))
  | 7 => ifReservedZero (reservedZeroN w) .flush
  | _ => .error .reservedOpcode

/-- The instruction of a word whose bits are numbered as spec/opcode_table.json numbers them: one 32-bit word, its
bits above `nbits` zero. -/
def decodeTableWord (nbits w : Nat) : Option Instr :=
  match decode (BitVec.ofNat 32 (w % 2 ^ nbits)) with
  | .ok i => some i
  | .error _ => none

/-- The field `n` of a word, in bits `lo + len - 1` to `lo`, as a number (R7, R50). A number that does not fit the field
is reduced to its lowest `len` bits. The spec is silent there, since no encoding exists: DESIGN CHOICE, log entry 21. -/
def place (n lo len : Nat) : Nat := n % 2 ^ len * 2 ^ lo

/-- Format P: `opc` 31:28, `v` 24, `y` 23:12, `x` 11:0 (R52). -/
def formatP (opc : Nat) (v : Bool) (y x : Nat) : CmdWord :=
  BitVec.ofNat 32 (place opc 28 4 + place v.toNat 24 1 + place y 12 12 + place x 0 12)

/-- Format G: `opc` 31:28, `addr` 27:21, `height` 20:12, `width` 11:0 (R55). -/
def formatG (opc : Nat) (addr : DevAddr) (height width : Nat) : CmdWord :=
  BitVec.ofNat 32 (place opc 28 4 + place addr.toNat 21 7 + place height 12 9 + place width 0 12)

/-- Format V: `opc` 31:28, `v` 24 (R53). -/
def formatV (opc : Nat) (v : Bool) : CmdWord := BitVec.ofNat 32 (place opc 28 4 + place v.toNat 24 1)

/-- Format B: `opc` 31:28, `cmd` 7:0 (R54). -/
def formatB (opc : Nat) (cmd : Byte) : CmdWord := BitVec.ofNat 32 (place opc 28 4 + place cmd.toNat 0 8)

/-- Format N: `opc` 31:28 (R51). -/
def formatN (opc : Nat) : CmdWord := BitVec.ofNat 32 (place opc 28 4)

/-- The encoder: the command word of an instruction, every bit outside its fields zero (R51 to R56). It is an encoding of
well-formed instructions alone. The word it gives for another is not that instruction's (log entry 21), and the host of
Machine/Routines.lean never hands it over. -/
def encode (i : Instr) : CmdWord :=
  match i with
  | .init width height addr => formatG 1 addr height width
  | .locate x y => formatP 2 false y x
  | .setpix x y v => formatP 3 v y x
  | .getpix x y => formatP 4 false y x
  | .fill v => formatV 5 v
  | .sendcmd cmd => formatB 6 cmd
  | .flush => formatN 7

/-- A row of the opcode map: a word `w` selects it when `w & mask = match` (R56). -/
structure OpcodeRow where
  mnemonic : String
  matchBits : CmdWord
  mask : CmdWord
  deriving DecidableEq, Repr

/-- The opcode map of R56, row by row. -/
def opcodeMap : List OpcodeRow :=
  [⟨"INIT", 0x10000000#32, 0xF0000000#32⟩, ⟨"LOCATE", 0x20000000#32, 0xFF000000#32⟩,
   ⟨"SETPIX", 0x30000000#32, 0xFE000000#32⟩, ⟨"GETPIX", 0x40000000#32, 0xFF000000#32⟩,
   ⟨"FILL", 0x50000000#32, 0xFEFFFFFF#32⟩, ⟨"SENDCMD", 0x60000000#32, 0xFFFFFF00#32⟩,
   ⟨"FLUSH", 0x70000000#32, 0xFFFFFFFF#32⟩]

/-- A word selects a row of the opcode map (R56). -/
abbrev OpcodeRow.Selects (r : OpcodeRow) (w : CmdWord) : Prop := w &&& r.mask = r.matchBits

/-- The mnemonic of an instruction, as spec/opcode_table.json spells it. -/
def Instr.mnemonic (i : Instr) : String :=
  match i with
  | .init _ _ _ => "INIT"
  | .locate _ _ => "LOCATE"
  | .setpix _ _ _ => "SETPIX"
  | .getpix _ _ => "GETPIX"
  | .fill _ => "FILL"
  | .sendcmd _ => "SENDCMD"
  | .flush => "FLUSH"

end Sys2Proof
end

