-- ==== Sys2Proof/Config.lean ====
section
/-! DEFINITION. The parameters of the block (R3): the constants the source fixes, and the OPEN parameters, which the
machine takes as data, with the constraints R3 puts on them. -/

namespace Sys2Proof.Config

/-- `CTRL_CMD`: the control prefix byte of a single-command write (R3, R60). -/
abbrev ctrlCmd : Byte := 0x80#8

/-- `CTRL_DATA`: the control prefix byte of a bulk data write, held in `image[0]` (R3, R16, R61). -/
abbrev ctrlData : Byte := 0x40#8

/-- The OPEN parameters of R3. A block holds one value of this type and never changes it. -/
structure Params where
  /-- `WORD_BITS`: the width in bits of one staging word (D7). -/
  wordBits : Nat
  /-- `TERM_BIT`: the bit index of the termination marker inside a staging word (D8). -/
  termBit : Nat
  /-- `COL_WINDOW_PREFIX`: command bytes sent before the column pair (D9). -/
  colPrefix : List Byte
  /-- `PAGE_WINDOW_PREFIX`: command bytes sent before the page pair (D9). -/
  pagePrefix : List Byte
  /-- `MAX_IMAGE_LEN`: the capacity of the image memory in bytes and of the staging memory in words (D14). -/
  maxImageLen : Nat
  /-- `DATA_REG_ADDR`: the fixed address of the data register, an opaque token: nothing computes with it (D31). -/
  dataRegAddr : Nat
  deriving DecidableEq, Repr

/-- The constraints of R3: `WORD_BITS > 8`, `8 <= TERM_BIT < WORD_BITS`, `MAX_IMAGE_LEN >= 2`. -/
abbrev Params.Legal (p : Params) : Prop :=
  8 < p.wordBits ∧ 8 ≤ p.termBit ∧ p.termBit < p.wordBits ∧ 2 ≤ p.maxImageLen

/-- The recommended values of R3 (G1, G2), with the capacity that the conventions of spec/95_test_vectors.md use. They
are only the default that `State.reset` holds (DESIGN CHOICE, log entry 1). -/
def recommended : Params where
  wordBits := 16
  termBit := 9
  colPrefix := [0x21#8]
  pagePrefix := [0x22#8]
  maxImageLen := 1025
  dataRegAddr := 0

end Sys2Proof.Config
end

