-- ==== Sys2Proof/Machine/State.lean ====
section
/-! DEFINITION. The state of the block and of what the outside world has in store for it, as plain data, and the state
after reset (spec/10_state.md; R180). -/

namespace Sys2Proof.Machine

open Sys2Proof.Config (Params)

/-- The image memory: `(index, byte)` pairs in the canonical form `Memory.wf` of Machine/Ops.lean, where an unlisted
index reads as `Memory.unlisted` (R15). -/
abbrev Memory := List Host.Cell

/-- How the command channel ends a bus write (R101). That it never ends is an input that never carries an answer. -/
inductive CmdOutcome where
  | ok
  | error
  deriving DecidableEq, Repr

/-- The five values of the flush phase (R18). -/
inductive Phase where
  /-- No flush in progress. -/
  | idle
  /-- The address-window commands are being sent. -/
  | addressWindowSet
  /-- The staging memory is being filled and marked. -/
  | staged
  /-- The burst channel is being configured and triggered. -/
  | armed
  /-- The core is blocked waiting for the completion report: the transfer is running (C4). -/
  | completed
  deriving DecidableEq, Repr

/-- The pacing source selector `bc.pace` (R20). -/
inductive PaceSource where
  /-- `TX_READY`, the bus's transmit-ready signal: the only value this block writes. -/
  | txReady
  /-- A selector the block never writes: what `bc.pace` holds before the first trigger. -/
  | other (selector : Nat)
  deriving DecidableEq, Repr

/-- The geometry and address latches `cfg` (R14). The widths R14 gives (9, 7, 4, 7 and 12 bits) are bounds that the
invariant states for the numbers. -/
structure Cfg where
  /-- `cfg.width`, 1 to 256 once created. -/
  width : Nat
  /-- `cfg.height`, a multiple of 8 from 8 to 64 once created. -/
  height : Nat
  /-- `cfg.pages`, always `cfg.height div 8`. -/
  pages : Nat
  /-- `cfg.dev_addr`, any 7-bit value. -/
  devAddr : DevAddr
  /-- `cfg.image_len`, always `cfg.pages * cfg.width + 1`. -/
  imageLen : Nat
  deriving DecidableEq, Repr

/-- The burst channel's configuration registers (R20) and progress state (R21). -/
structure Burst where
  /-- `bc.src`, a staging word index. -/
  src : Nat
  /-- `bc.src_inc`. -/
  srcInc : Bool
  /-- `bc.dst`, an address. -/
  dst : Nat
  /-- `bc.dst_inc`. -/
  dstInc : Bool
  /-- `bc.width`, in bits. -/
  width : Nat
  /-- `bc.pace`. -/
  pace : PaceSource
  /-- `bc.count`, in words. -/
  count : Nat
  /-- `bc.active`: true from the trigger until the channel reports completion. -/
  active : Bool
  /-- `bc.pos`: the index of the next staging word to move. -/
  pos : Nat
  /-- `bc.remaining`: words still to move. -/
  remaining : Nat
  /-- `bc.done`: the completion report. -/
  done : Bool
  deriving DecidableEq, Repr

/-- A bus write the command channel has been asked for and has not yet answered (R101). -/
structure CmdRequest where
  /-- The bus address the frame is sent to. -/
  addr : DevAddr
  /-- Byte 0 of the frame. -/
  b0 : Byte
  /-- Byte 1 of the frame. -/
  b1 : Byte
  deriving DecidableEq, Repr

/-- An event of the observation log (R26). -/
inductive Event where
  /-- `Cmd(addr, b0, b1, outcome)`: a `CmdWrite` has returned. -/
  | cmd (addr : DevAddr) (b0 b1 : Byte) (outcome : CmdOutcome)
  /-- `Arm(src, dst, width, count)`: the trigger. -/
  | arm (src dst width count : Nat)
  /-- `Data(w)`: one write of the data register. -/
  | data (w : WideWord)
  /-- `Done`: the completion report. -/
  | done
  /-- `Rsp(word)`: a response to the host. -/
  | rsp (word : CmdWord)
  deriving DecidableEq, Repr

/-- What the block samples from outside in one step (R22), and the reset line (R181, R194). -/
structure Inputs where
  /-- The hardware reset is asserted. -/
  reset : Bool
  /-- The command channel's answer to the outstanding bus write, if it answers in this step. -/
  cmdAnswer : Option CmdOutcome
  /-- The bus controller's transmit-ready signal. -/
  txReady : Bool
  deriving DecidableEq, Repr

/-- Nothing happens outside: no reset, no answer, not ready. -/
def Inputs.quiet : Inputs := ⟨false, none, false⟩

/-- The state of the block, the free inputs it has yet to meet (R22, log entry 2) and its OPEN parameters (R3). -/
structure State where
  /-- The OPEN parameters of R3, constant (log entry 1). -/
  params : Params
  /-- `created` (R13). -/
  created : Bool
  /-- `alloc_failed` (R19). -/
  allocFailed : Bool
  /-- `cfg` (R14). -/
  cfg : Cfg
  /-- `image` (R15). -/
  image : Memory
  /-- `staging`: word `i` is element `i`, and an index past the end holds no value (R17). -/
  staging : List WideWord
  /-- `phase` (R18). -/
  phase : Phase
  /-- `bc` (R20, R21). -/
  bc : Burst
  /-- The outstanding `CmdWrite`, if any (implied by R101 and R103, log entry 3). -/
  cmdReq : Option CmdRequest
  /-- The bytes of `AW` the sequencer has still to send (the position of the loop of R110, log entry 3). -/
  window : List Byte
  /-- `log`, the observation log, oldest event first (R26). -/
  log : List Event
  /-- INPUT: the command words the host has still to hand over, in its order (R22, R150). -/
  hostWords : List CmdWord
  /-- INPUT: what the block will sample in each of the coming steps (R22); past the end, `Inputs.quiet`. -/
  inputs : List Inputs
  deriving DecidableEq, Repr

/-- Why a step ends in a fault. The hardware raises nothing in any of these cases: they are the faults of the model
that spec/93_implementation_defined.md asks for. -/
inductive Fault where
  /-- LOCATE, SETPIX or GETPIX of a pixel that is not in-range: undefined by R75 (U1). Raised by `execLocate`,
  `execSetpix`, `execGetpix`. Safe: the model stops where the hardware goes on with an undefined result. -/
  | pixelOutOfRange
  /-- SETPIX, GETPIX or FILL of an in-range pixel whose byte is outside the image: undefined by R84 (U2). Raised by
  `execSetpix`, `execGetpix`, `execFill`. Safe: the model stops where the hardware goes on with an undefined effect. -/
  | pixelNotInImage
  /-- The burst channel reads a staging word that holds no value (R17, U3). Raised by `burstMove`. Safe: no state that
  meets the model's invariant raises it. -/
  | stagingNoValue
  deriving DecidableEq, Repr

/-- Why an instruction has no meaning. -/
inductive Refusal where
  /-- The instruction has no meaning in the model yet. Raised by a refused arm of `exec` alone; there is none. Safe:
  nothing can be proved of a run that stops there. -/
  | notModelled (mnemonic : String)
  deriving DecidableEq, Repr

/-- The latches at reset: unspecified (R180), here zero (DESIGN CHOICE, log entry 4). -/
def Cfg.atReset : Cfg := ⟨0, 0, 0, 0#7, 0⟩

/-- The burst channel at reset: `bc.active` and `bc.done` false (R21, R180); the rest unspecified, here zero (DESIGN
CHOICE, log entry 4). -/
def Burst.atReset : Burst := ⟨0, false, 0, false, 0, .other 0, 0, false, 0, 0, false⟩

/-- The block with the parameters `p` right after a hardware reset (R180), with nothing yet in store outside. -/
def State.resetWith (p : Params) : State where
  params := p
  created := false
  allocFailed := false
  cfg := Cfg.atReset
  image := []
  staging := []
  phase := .idle
  bc := Burst.atReset
  cmdReq := none
  window := []
  log := []
  hostWords := []
  inputs := []

/-- The machine right after reset (R180), with the recommended parameters (log entry 1). -/
def State.reset : State := State.resetWith Config.recommended

end Sys2Proof.Machine
end

