-- ==== Sys2Proof/Machine/Flags.lean ====
section
/-! DEFINITION. The status of an operation and the response word. The block has no flags register and no condition
codes (R12): the status in the response word is the only outcome an operation reports. -/

namespace Sys2Proof.Machine

/-- The statuses of R160. -/
inductive Status where
  | ok
  | allocFail
  | busError
  | notCreated
  | illegalCmd
  | badGeometry
  | alreadyCreated
  deriving DecidableEq, Repr

/-- The status codes of R160; codes 7 to 15 are never produced. -/
def Status.code (st : Status) : BitVec 4 :=
  match st with
  | .ok => 0#4
  | .allocFail => 1#4
  | .busError => 2#4
  | .notCreated => 3#4
  | .illegalCmd => 4#4
  | .badGeometry => 5#4
  | .alreadyCreated => 6#4

/-- The response word: `status` 31:28, zero 27:25, `pix` 24, `mask` 23:16, `idx` 15:0 (R58). -/
def responseWord (st : Status) (idx : Nat) (mask : Byte) (pix : Bool) : CmdWord :=
  BitVec.ofNat 32 (place st.code.toNat 28 4 + place pix.toNat 24 1 + place mask.toNat 16 8 + place idx 0 16)

/-- The `status` field of a response word, bits 31:28 (R58). -/
def statusField (w : CmdWord) : BitVec 4 := slice w 28 4

/-- The `pix` field of a response word, bit 24 (R58). -/
def pixField (w : CmdWord) : Bool := slice w 24 1 == 1#1

/-- The `mask` field of a response word, bits 23:16 (R58). -/
def maskField (w : CmdWord) : Byte := slice w 16 8

/-- The `idx` field of a response word, bits 15:0 (R58). -/
def idxField (w : CmdWord) : BitVec 16 := slice w 0 16

/-- The response word of an event, if the event is a response (R26). -/
def Event.response? (e : Event) : Option CmdWord :=
  match e with
  | .rsp w => some w
  | .cmd _ _ _ _ => none
  | .arm _ _ _ _ => none
  | .data _ => none
  | .done => none

end Sys2Proof.Machine
end

