-- ==== Sys2Proof/Machine/Operands.lean ====
section
/-! DEFINITION. Operand forms: the pixel-address mapping and its ranges, the geometry check, the one bit a pixel
operation changes, the bytes of the address window and the words of the staging memory. All index arithmetic is on
unbounded non-negative integers: nothing wraps (R7, R152). -/

namespace Sys2Proof.Machine

open Sys2Proof.Config (Params)

/-- The index of `locate(x, y)`: the stride between columns is the constant 8, whatever the page count (R71). -/
def byteIndex (x y : Nat) : Nat := y / 8 + x * 8 + 1

/-- The bit position of `locate(x, y)` (R71). -/
def bitPosition (y : Nat) : Nat := y % 8

/-- The mask of `locate(x, y)`: `1 << bit` on 8 bits, bit 0 least significant (R33, R71). -/
def pixelMask (y : Nat) : Byte := 1#8 <<< bitPosition y

/-- `geometry_ok(width, height)` (R81). -/
abbrev GeometryOk (width height : Nat) : Prop :=
  1 ≤ width ∧ width ≤ 256 ∧
    (height = 8 ∨ height = 16 ∨ height = 24 ∨ height = 32 ∨ height = 40 ∨ height = 48 ∨ height = 56 ∨ height = 64)

/-- `PAGES` of a height (R4). -/
def pagesOf (height : Nat) : Nat := height / 8

/-- `IMAGE_LEN` of a geometry (R4, R15). -/
def imageLenOf (width height : Nat) : Nat := pagesOf height * width + 1

/-- The latches a successful INIT leaves (R80). -/
def Cfg.ofOperands (width height : Nat) (addr : DevAddr) : Cfg where
  width := width
  height := height
  pages := pagesOf height
  devAddr := addr
  imageLen := imageLenOf width height

/-- A pixel is in-range (R9). -/
abbrev Cfg.InRange (c : Cfg) (x y : Nat) : Prop := x < c.width ∧ y < c.height

/-- An index is in-image (R9). -/
abbrev Cfg.InImage (c : Cfg) (idx : Nat) : Prop := idx < c.imageLen

/-- A geometry in which every in-range pixel is in-image (R9, R74). -/
def Cfg.FullyAddressable (c : Cfg) : Prop := ∀ x y, c.InRange x y → c.InImage (byteIndex x y)

/-- Set or clear the bits of a mask in a byte (R83). -/
def withBits (old mask : Byte) (v : Bool) : Byte := if v then old ||| mask else old &&& ~~~mask

/-- A bit of the mask is one in the byte (R85). -/
def testBits (b mask : Byte) : Bool := b &&& mask != 0#8

/-- Every pixel of the geometry, column by column; R86 leaves the order open (D18). -/
def pixelDomain (width height : Nat) : List (Nat × Nat) :=
  (List.range width).flatMap fun x => (List.range height).map fun y => (x, y)

/-- The list `AW` of command bytes that sets the device's address window to the whole display (R63). -/
def addressWindow (p : Params) (c : Cfg) : List Byte :=
  p.colPrefix ++ [0#8, BitVec.ofNat 8 (c.width - 1)] ++ p.pagePrefix ++ [0#8, BitVec.ofNat 8 (c.pages - 1)]

/-- An image byte as a staging word, its upper bits zero (R62, R114). -/
def zextWide (b : Byte) : WideWord := b.toNat

/-- The termination marker as a staging word (R62, R115). -/
def termMarker (p : Params) : WideWord := 1 <<< p.termBit

/-- Set the marker bit in the last word of a staging memory and in no other (R115). -/
def markLast (p : Params) : List WideWord → List WideWord
  | [] => []
  | [w] => [w ||| termMarker p]
  | w :: w' :: ws => w :: markLast p (w' :: ws)

end Sys2Proof.Machine
end

