-- ==== Sys2Proof/Machine/Ops.lean ====
section
/-! DEFINITION. The named operations over the image memory and the state, among them `respond`, which ends an operation,
and `raise`, which is how this block takes an exception: an error response that saves nothing, switches no mode and
transfers control nowhere (R169). There is no return from it: after any response the block is ready for the next command
(R170). -/

namespace Sys2Proof.Machine

/-- What an index of the image memory that no cell lists reads as. INIT gives every in-image byte a value before any
operation can read it (R15), so this choice is never seen by a program (DESIGN CHOICE, log entry 5). -/
def Memory.unlisted : Byte := 0x00#8

/-- `image[i]`: the byte at an index (R8). -/
def Memory.read : Memory → Nat → Byte
  | [], _ => Memory.unlisted
  | (a, b) :: m, i => if i < a then Memory.unlisted else if i = a then b else Memory.read m i

/-- `image[i] <- v` (R8): keeps the canonical form. -/
def Memory.write : Memory → Nat → Byte → Memory
  | [], i, v => if v = Memory.unlisted then [] else [(i, v)]
  | (a, b) :: m, i, v =>
    if i < a then (if v = Memory.unlisted then (a, b) :: m else (i, v) :: (a, b) :: m)
    else if i = a then (if v = Memory.unlisted then m else (i, v) :: m)
    else (a, b) :: Memory.write m i v

/-- `image[i] <- 0x00` for every `i` with `lo <= i < hi` (R80): the cells of the range are dropped, since an unlisted
index reads as `0x00`. -/
def Memory.clearRange (m : Memory) (lo hi : Nat) : Memory := m.filter fun c => c.1 < lo || hi ≤ c.1

/-- The canonical form: indices strictly rising, and no cell equal to what an unlisted index reads as. -/
abbrev Memory.wf (m : Memory) : Prop := m.Pairwise (fun c d => c.1 < d.1) ∧ ∀ c ∈ m, c.2 ≠ Memory.unlisted

/-- The bytes `image[0 .. len - 1]`, in index order. -/
def Memory.bytes (m : Memory) (len : Nat) : List Byte := (List.range len).map m.read

/-- `log(e)`: append an event to the observation log (R8, R26). -/
def State.logEvent (s : State) (e : Event) : State := { s with log := s.log ++ [e] }

/-- Latch `created` (R13). -/
def State.setCreated (s : State) (b : Bool) : State := { s with created := b }

/-- Latch `alloc_failed` (R19). -/
def State.setAllocFailed (s : State) (b : Bool) : State := { s with allocFailed := b }

/-- Write `cfg` (R14). -/
def State.setCfg (s : State) (c : Cfg) : State := { s with cfg := c }

/-- Write `image` (R15). -/
def State.setImage (s : State) (m : Memory) : State := { s with image := m }

/-- Write `staging` (R17). -/
def State.setStaging (s : State) (ws : List WideWord) : State := { s with staging := ws }

/-- `phase <- P` (R18). -/
def State.setPhase (s : State) (p : Phase) : State := { s with phase := p }

/-- Write `bc` (R20, R21). -/
def State.setBc (s : State) (b : Burst) : State := { s with bc := b }

/-- Ask the command channel for a bus write, or take an answered request away (R101). -/
def State.setCmdReq (s : State) (r : Option CmdRequest) : State := { s with cmdReq := r }

/-- Set the address-window bytes still to send (R112). -/
def State.setWindow (s : State) (bs : List Byte) : State := { s with window := bs }

/-- Set the words the host has still to hand over (R150). -/
def State.setHostWords (s : State) (ws : List CmdWord) : State := { s with hostWords := ws }

/-- Set the inputs of the coming steps (R22). -/
def State.setInputs (s : State) (is : List Inputs) : State := { s with inputs := is }

/-- The inputs the block samples in this step (R22). -/
def State.sampled (s : State) : Inputs := s.inputs.headD Inputs.quiet

/-- The state once this step's inputs have been sampled. -/
def State.afterSample (s : State) : State := s.setInputs s.inputs.tail

/-- `respond(status, idx, mask, pix)`: end the operation and hand the response word to the host (R8, R58). -/
def respond (st : Status) (idx : Nat) (mask : Byte) (pix : Bool) (s : State) : State :=
  s.logEvent (.rsp (responseWord st idx mask pix))

/-- `raise <Status>`: the error response, its result fields zero, with no other state change (R8, R169). -/
def raise (st : Status) (s : State) : State := respond st 0 0#8 false s

/-- An operation that answers in one step. -/
def answer (st : Status) (idx : Nat) (mask : Byte) (pix : Bool) (s : State) : Host.Outcome State Fault Refusal :=
  .next (respond st idx mask pix s)

/-- Checks 1 and 3 of R167 for every operation but INIT: the sticky allocation failure, then `created`. -/
def whenCreated (s : State) (k : Host.Outcome State Fault Refusal) : Host.Outcome State Fault Refusal :=
  if s.allocFailed then .next (raise .allocFail s)
  else if s.created then k
  else .next (raise .notCreated s)

/-- Checks 1 and 3 of R167 for INIT: the sticky allocation failure, then `created`. -/
def whenNotCreated (s : State) (k : Host.Outcome State Fault Refusal) : Host.Outcome State Fault Refusal :=
  if s.allocFailed then .next (raise .allocFail s)
  else if s.created then .next (raise .alreadyCreated s)
  else k

/-- Request `CmdWrite(DEV_ADDR, [0x80, b])` of the command channel (R60, R101). -/
def requestCmdWrite (b : Byte) (s : State) : State :=
  s.setCmdReq (some { addr := s.cfg.devAddr, b0 := Config.ctrlCmd, b1 := b })

/-- No operation is in progress, so the command port accepts a word (R186). A SENDCMD in progress is seen by its
outstanding bus write, since only FLUSH changes `phase` (R11). -/
abbrev State.Ready (s : State) : Prop := s.phase = .idle ∧ s.cmdReq = none

/-- The command port accepts a word in the coming step: the block is ready and no reset is sampled (R181, R186). -/
abbrev State.Accepts (s : State) : Prop := s.Ready ∧ s.sampled.reset = false

/-- A hardware reset (R180, R181): the block as after power-on, whatever it was doing; the outside world is not
reset. -/
def hardwareReset (s : State) : State :=
  ((State.resetWith s.params).setHostWords s.hostWords).setInputs s.inputs

/-- The state in which the block's next step takes the word `w` from the command port: `w` stands first among the words
the host hands over, no operation is in progress and the coming step samples no reset. -/
def State.presenting (s : State) (w : CmdWord) : State :=
  { s with
    phase := .idle
    cmdReq := none
    hostWords := w :: s.hostWords
    inputs := { s.sampled with reset := false } :: s.inputs.tail }

end Sys2Proof.Machine
end

