-- ==== Sys2Proof/Machine/Channel.lean ====
section
/-! DEFINITION. SENDCMD, and the command channel's answer to an outstanding bus write, SENDCMD's or the sequencer's
(spec/42_command_channel.md, R112). -/

namespace Sys2Proof.Machine

/-- SENDCMD `cmd` (R100): the first of its two steps (R151), the request. The answer is `channelAnswer`. -/
def execSendcmd (cmd : Byte) (s : State) : Host.Outcome State Fault Refusal :=
  whenCreated s <| .next (requestCmdWrite cmd s)

/-- The state once the command channel has returned: the request is gone and the event logged (R101). -/
def cmdReturned (r : CmdRequest) (o : CmdOutcome) (s : State) : State :=
  (s.setCmdReq none).logEvent (.cmd r.addr r.b0 r.b1 o)

/-- Phase AddressWindowSet with no bus write outstanding: ask for the next byte of `AW`; after the last one phase Staged
(R110, R112). -/
def windowStep (s : State) : State :=
  match s.window with
  | b :: bs => requestCmdWrite b (s.setWindow bs)
  | [] => s.setPhase .staged

/-- The operation goes on after a bus write that returned `ok`, in the same step: SENDCMD answers (R100), the sequencer of
FLUSH asks for its next bus write or leaves the phase, so that a `CmdWrite` of FLUSH is one step (R112, R151). A bus write
asked for in phase Idle is SENDCMD's, any other the sequencer's (R11, R110). -/
def afterCmdOk (s : State) : State :=
  match s.phase with
  | .idle => respond .ok 0 0#8 false s
  | .addressWindowSet => windowStep s
  | .staged => s
  | .armed => s
  | .completed => s

/-- A bus write that returned `error` ends the operation: no further command byte, no staging, no burst, `phase` back to
Idle, `BUS_ERROR` (R102, R113, R162). -/
def afterCmdError (s : State) : State := raise .busError ((s.setWindow []).setPhase .idle)

/-- One step while a bus write is outstanding: the core takes no other step (R103). Without an answer nothing changes:
nothing bounds the wait, and there is no timeout (R103, U5). -/
def channelAnswer (r : CmdRequest) (a : Option CmdOutcome) (s : State) : Host.Outcome State Fault Refusal :=
  match a with
  | none => .next s
  | some .ok => .next (afterCmdOk (cmdReturned r .ok s))
  | some .error => .next (afterCmdError (cmdReturned r .error s))

end Sys2Proof.Machine
end

