-- ==== Sys2Proof/Machine/Framebuffer.lean ====
section
/-! DEFINITION. INIT, SETPIX, GETPIX and FILL: the operations that create, change and query the packed image
(spec/41_framebuffer_ops.md). Each is one step (R151). -/

namespace Sys2Proof.Machine

/-- The image a successful INIT leaves: `image[0]` the data prefix, `image[1 .. len - 1]` zero, bytes beyond as they
were (R80). -/
def clearedImage (m : Memory) (len : Nat) : Memory := (m.clearRange 1 len).write 0 Config.ctrlData

/-- The state a successful INIT leaves, before its response (R80). -/
def createImage (width height : Nat) (addr : DevAddr) (s : State) : State :=
  ((s.setCfg (Cfg.ofOperands width height addr)).setImage
    (clearedImage s.image (imageLenOf width height))).setCreated true

/-- INIT `width, height, addr` (R80): checks 3, 4 and 5 of R167 in their order, then the image and the latches. -/
def execInit (width height : Nat) (addr : DevAddr) (s : State) : Host.Outcome State Fault Refusal :=
  whenNotCreated s <|
    if GeometryOk width height then
      if s.params.maxImageLen < imageLenOf width height then .next (raise .allocFail (s.setAllocFailed true))
      else answer .ok 0 0#8 false (createImage width height addr s)
    else .next (raise .badGeometry s)

/-- The image with one pixel set or cleared (R83). -/
def writePixel (m : Memory) (x y : Nat) (v : Bool) : Memory :=
  m.write (byteIndex x y) (withBits (m.read (byteIndex x y)) (pixelMask y) v)

/-- The value of one pixel (R85). -/
def readPixel (m : Memory) (x y : Nat) : Bool := testBits (m.read (byteIndex x y)) (pixelMask y)

/-- Run an access of the pixel `(x, y)`: a pixel that is not in-range (R75, U1) or not in-image (R84, U2) is a fault of
the model, never a wrap, a drop or a write outside the image. -/
def withPixel (s : State) (x y : Nat) (k : Host.Outcome State Fault Refusal) : Host.Outcome State Fault Refusal :=
  if s.cfg.InRange x y then
    if s.cfg.InImage (byteIndex x y) then k else .fault .pixelNotInImage
  else .fault .pixelOutOfRange

/-- SETPIX `x, y, v` (R83). -/
def execSetpix (x y : Nat) (v : Bool) (s : State) : Host.Outcome State Fault Refusal :=
  whenCreated s <| withPixel s x y <| answer .ok 0 0#8 false (s.setImage (writePixel s.image x y v))

/-- GETPIX `x, y` (R85). -/
def execGetpix (x y : Nat) (s : State) : Host.Outcome State Fault Refusal :=
  whenCreated s <| withPixel s x y <| answer .ok 0 0#8 (readPixel s.image x y) s

/-- The state change of SETPIX for each pixel of a list, in its order; none where a pixel is not in-image (R84, R86). -/
def fillPixels (len : Nat) (v : Bool) : List (Nat × Nat) → Memory → Option Memory
  | [], m => some m
  | (x, y) :: rest, m => if byteIndex x y < len then fillPixels len v rest (writePixel m x y v) else none

/-- FILL `v` (R86): every pixel of the geometry through the path of SETPIX, as one operation. In a geometry that is not
fully addressable it meets a pixel that is not in-image, which is a fault of the model (U2). -/
def execFill (v : Bool) (s : State) : Host.Outcome State Fault Refusal :=
  whenCreated s <|
    match fillPixels s.cfg.imageLen v (pixelDomain s.cfg.width s.cfg.height) s.image with
    | some m => answer .ok 0 0#8 false (s.setImage m)
    | none => .fault .pixelNotInImage

end Sys2Proof.Machine
end

