-- ==== Sys2Proof/Machine/Pixel.lean ====
section
/-! DEFINITION. LOCATE: the pixel-address mapping alone (spec/40_pixel_addressing.md). -/

namespace Sys2Proof.Machine

/-- LOCATE `x, y` (R70). It touches no memory, so an in-range pixel whose index is not in-image is answered normally
(R74); a pixel that is not in-range is a fault of the model (R75, U1). -/
def execLocate (x y : Nat) (s : State) : Host.Outcome State Fault Refusal :=
  whenCreated s <|
    if s.cfg.InRange x y then answer .ok (byteIndex x y) (pixelMask y) false s
    else .fault .pixelOutOfRange

end Sys2Proof.Machine
end

