-- ==== Sys2Proof/Machine/Transfer.lean ====
section
/-! DEFINITION. FLUSH, the steps of its phases and the steps of the burst channel (spec/43_transfer_engine.md). -/

namespace Sys2Proof.Machine

/-- The start of a flush: phase AddressWindowSet, with the bus write of the first byte of `AW` asked for (R110, R112). -/
def flushStart (s : State) : State :=
  windowStep ((s.setWindow (addressWindow s.params s.cfg)).setPhase .addressWindowSet)

/-- FLUSH (R110): the step that accepts it, which like SENDCMD's makes the first request (log entry 7). The steps after it
(R151) are `channelAnswer`, one for each `CmdWrite`, then `stageStep`, `armStep` and `waitStep`. -/
def execFlush (s : State) : Host.Outcome State Fault Refusal := whenCreated s <| .next (flushStart s)

/-- The staging memory of a frame: every image byte zero-extended, the marker in the last word (R114, R115). -/
def frameOf (s : State) : List WideWord := markLast s.params ((s.image.bytes s.cfg.imageLen).map zextWide)

/-- Phase Staged as one atomic step (R114, R115, R127). -/
def stageStep (s : State) : State := (s.setStaging (frameOf s)).setPhase .armed

/-- The burst channel's registers at the trigger (R110, R117). -/
def triggered (s : State) : Burst where
  src := 0
  srcInc := true
  dst := s.params.dataRegAddr
  dstInc := false
  width := s.params.wordBits
  pace := .txReady
  count := s.cfg.imageLen
  active := true
  pos := 0
  remaining := s.cfg.imageLen
  done := false

/-- Phase Armed: configure the burst channel, trigger it, log the trigger, and wait in phase Completed (R117, R118). -/
def armStep (s : State) : State :=
  ((s.setBc (triggered s)).logEvent
    (.arm (triggered s).src (triggered s).dst (triggered s).width (triggered s).count)).setPhase .completed

/-- `bc` after one Move (R122). -/
def Burst.moved (b : Burst) : Burst := { b with pos := b.pos + 1, remaining := b.remaining - 1 }

/-- `bc` after Finish (R123). -/
def Burst.finished (b : Burst) : Burst := { b with active := false, done := true }

/-- Burst step Move (R122): one staging word to the data register, in index order. A word that holds no value is a fault
of the model (R17, U3). -/
def burstMove (s : State) : Host.Outcome State Fault Refusal :=
  match s.staging[s.bc.src + s.bc.pos]? with
  | some w => .next ((s.logEvent (.data w)).setBc s.bc.moved)
  | none => .fault .stagingNoValue

/-- Burst step Finish: the completion report (R123). -/
def burstFinish (s : State) : State := (s.setBc s.bc.finished).logEvent .done

/-- Return to Idle: FLUSH answers `OK` and the staging words hold no value again (R119). -/
def flushDone (s : State) : State := respond .ok 0 0#8 false ((s.setStaging []).setPhase .idle)

/-- One step in phase Completed (R118): Move or Finish where the burst channel has one enabled (R122, R123), the return
to Idle once `bc.done` holds, and otherwise nothing changes: there is no timeout and no cancellation (R124, U5). -/
def waitStep (txReady : Bool) (s : State) : Host.Outcome State Fault Refusal :=
  if s.bc.active then
    if s.bc.remaining = 0 then .next (burstFinish s)
    else if txReady then burstMove s
    else .next s
  else if s.bc.done then .next (flushDone s)
  else .next s

end Sys2Proof.Machine
end

