-- ==== Sys2Proof/Machine/Dispatch.lean ====
section
/-! DEFINITION. The meaning of each instruction: one arm per constructor of Instr (R56, R150). -/

namespace Sys2Proof.Machine

def exec (i : Instr) (s : State) : Host.Outcome State Fault Refusal :=
  match i with
  | .init width height addr => Sys2Proof.Machine.execInit width height addr s
  | .locate x y => Sys2Proof.Machine.execLocate x y s
  | .setpix x y v => Sys2Proof.Machine.execSetpix x y v s
  | .getpix x y => Sys2Proof.Machine.execGetpix x y s
  | .fill v => Sys2Proof.Machine.execFill v s
  | .sendcmd cmd => Sys2Proof.Machine.execSendcmd cmd s
  | .flush => Sys2Proof.Machine.execFlush s

end Sys2Proof.Machine
end

