-- ==== Sys2Proof/Machine/Port.lean ====
section
/-! DEFINITION. The command port: how the block takes the host's next word (R150, R186). -/

namespace Sys2Proof.Machine

/-- An illegal word changes no state and is answered `ILLEGAL_CMD`, after check 1 of R167 (R57, R164, R167). -/
def rejectIllegal (s : State) : State := if s.allocFailed then raise .allocFail s else raise .illegalCmd s

/-- The response to one accepted command word (R150): an illegal word is answered, a legal one is executed. -/
def runWord (w : CmdWord) (s : State) : Host.Outcome State Fault Refusal :=
  match decode w with
  | .ok i => exec i s
  | .error _ => .next (rejectIllegal s)

/-- One step with no operation in progress: take the host's next word and run it; without a word nothing changes: the
block waits for one (R150, R180, R186). -/
def acceptWord (s : State) : Host.Outcome State Fault Refusal :=
  match s.hostWords with
  | [] => .next s
  | w :: rest => runWord w (s.setHostWords rest)

end Sys2Proof.Machine
end

