-- ==== Sys2Proof/Machine/Cycle.lean ====
section
/-! DEFINITION. One step of the block and its agents, for the inputs sampled in it. At most one agent can take a step in
any state, so that the step is a function of the state (R6, R22, R127). -/

namespace Sys2Proof.Machine

/-- The step the state allows, no reset being asserted: the command channel's answer while a bus write is outstanding
(R103), else the step of the phase (R111). In phase AddressWindowSet a bus write is always outstanding (`Inv`), so the arm
of that phase only says what a state that no run reaches does. -/
def advance (inp : Inputs) (s : State) : Host.Outcome State Fault Refusal :=
  match s.cmdReq with
  | some r => channelAnswer r inp.cmdAnswer s
  | none =>
    match s.phase with
    | .idle => acceptWord s
    | .addressWindowSet => .next (windowStep s)
    | .staged => .next (stageStep s)
    | .armed => .next (armStep s)
    | .completed => waitStep inp.txReady s

/-- One step for the sampled inputs: a hardware reset ends whatever is in progress (R181). -/
def cycle (inp : Inputs) (s : State) : Host.Outcome State Fault Refusal :=
  if inp.reset then .next (hardwareReset s) else advance inp s

end Sys2Proof.Machine
end

