-- ==== Sys2Proof/Machine/Step.lean ====
section
/-! DEFINITION. The step of the machine, and the state in which it takes a given command word. -/

namespace Sys2Proof.Machine

/-- One step: sample the inputs (R22) and take the step they allow. -/
def step (s : State) : Host.Outcome State Fault Refusal := cycle s.sampled s.afterSample

/-- The state whose very next step takes the command word `w` from the host (R150). The block fetches nothing (R11), so
the word is placed at the head of what the host hands over (log entry 6). -/
def State.withFetchWord (s : State) (nbits w : Nat) : State := s.presenting (BitVec.ofNat 32 (w % 2 ^ nbits))

end Sys2Proof.Machine
end

