-- ==== Sys2Proof/Machine/Routines.lean ====
section
/-! DEFINITION. The host agent: the pseudo-operations that expand into sequences of the seven commands
(spec/48_host_rendering_pseudo_ops.md, R66), and the host that issues the commands of an expansion one by one, each to
its response (R65, R149). Nothing here is part of the block. -/

namespace Sys2Proof.Machine

/-- The external data of the host routines (U12): the device's configuration sequence, and the glyph table as a
capability to look up a byte. -/
structure HostData where
  /-- `INIT_SEQ` (R140). -/
  initSeq : List Byte
  /-- `GLYPH[i]` (R146). -/
  glyph : Nat → Byte

/-- The pseudo-operations, operands in the order of the source's signatures (R65, R66). -/
inductive Pseudo where
  /-- `initialize(width, height, address, bus)`; `bus` has no counterpart in the block (R140). -/
  | construct (width height : Nat) (addr : DevAddr)
  /-- `flush()` (R141). -/
  | flush
  /-- `setPixel(x, y, value)` (R141). -/
  | setPixel (x y : Nat) (value : Bool)
  /-- `fillAll(value)` (R141). -/
  | fillAll (value : Bool)
  /-- `drawRect(top, left, width, height, value, filled)` (R142). -/
  | drawRect (top left width height : Nat) (value filled : Bool)
  /-- `drawHLine(x0, x1, y, value)` (R143). -/
  | drawHLine (x0 x1 y : Nat) (value : Bool)
  /-- `drawVLine(x, y0, y1, value)` (R144). -/
  | drawVLine (x y0 y1 : Nat) (value : Bool)
  /-- `drawLine(x0, y0, x1, y1, value)` (R145). -/
  | drawLine (x0 y0 x1 y1 : Nat) (value : Bool)
  /-- `drawChar(c, x, y)` (R146). -/
  | drawChar (c x y : Nat)
  /-- `drawString(text, x, y)` (R147). -/
  | drawString (text : List Nat) (x y : Nat)
  deriving DecidableEq, Repr

/-- The range `a .. b`, both ends in it, empty when `b < a` (R142). -/
def span (a b : Nat) : List Nat := List.range' a (b + 1 - a)

/-- One SETPIX for each pixel of a list (R142 to R145). -/
def plot (value : Bool) (pixels : List (Nat × Nat)) : List Instr := pixels.map fun p => .setpix p.1 p.2 value

/-- The pixels of `drawHLine` (R143). -/
def hlinePixels (x0 x1 y : Nat) : List (Nat × Nat) := (span x0 x1).map fun x => (x, y)

/-- The pixels of `drawVLine` (R144). -/
def vlinePixels (x y0 y1 : Nat) : List (Nat × Nat) := (span y0 y1).map fun y => (x, y)

/-- The pixels of the border of a rectangle, corners twice, for `w >= 1` and `h >= 1` (R142). -/
def borderPixels (top left w h : Nat) : List (Nat × Nat) :=
  ((span left (left + w - 1)).flatMap fun x => [(x, top), (x, top + h - 1)]) ++
    (span top (top + h - 1)).flatMap fun y => [(left, y), (left + w - 1, y)]

/-- The pixels strictly inside the border of a rectangle (R142). -/
def interiorPixels (top left w h : Nat) : List (Nat × Nat) :=
  (List.range' (left + 1) (w - 2)).flatMap fun x => (List.range' (top + 1) (h - 2)).map fun y => (x, y)

/-- `drawRect` (R142); `width = 0` or `height = 0` is refused: the routine issues nothing (U10). -/
def rectCommands (top left w h : Nat) (value filled : Bool) : Option (List Instr) :=
  if 1 ≤ w ∧ 1 ≤ h then
    some (plot value (borderPixels top left w h ++ if filled then interiorPixels top left w h else []))
  else none

/-- The variables of the loop of `drawLine` (R145). -/
structure LineVars where
  x : Int
  y : Int
  err : Int
  deriving DecidableEq, Repr

/-- The constants of the loop of `drawLine`: the two distances and the two step signs (R145). -/
structure LineConsts where
  dx : Int
  dy : Int
  sx : Int
  sy : Int
  deriving DecidableEq, Repr

/-- The constants of a line (R145). -/
def LineConsts.of (x0 y0 x1 y1 : Int) : LineConsts where
  dx := |x1 - x0|
  dy := |y1 - y0|
  sx := if x0 < x1 then 1 else -1
  sy := if y0 < y1 then 1 else -1

/-- The first update of a step: if `e2 > -dy`, advance `x` (R145). -/
def LineVars.stepX (c : LineConsts) (e2 : Int) (v : LineVars) : LineVars :=
  if -c.dy < e2 then { v with err := v.err - c.dy, x := v.x + c.sx } else v

/-- The second update of a step: if `e2 < dx`, advance `y` (R145). -/
def LineVars.stepY (c : LineConsts) (e2 : Int) (v : LineVars) : LineVars :=
  if e2 < c.dx then { v with err := v.err + c.dx, y := v.y + c.sy } else v

/-- One step of the line: both tests use the error before either update (R145, D33). -/
def LineVars.next (c : LineConsts) (v : LineVars) : LineVars := (v.stepX c (2 * v.err)).stepY c (2 * v.err)

/-- The loop of `drawLine`: plot the current point and stop at the endpoint (R145), at most `fuel` points. -/
def lineLoop (c : LineConsts) (x1 y1 : Int) : Nat → LineVars → List (Int × Int)
  | 0, _ => []
  | fuel + 1, v =>
    if v.x = x1 ∧ v.y = y1 then [(v.x, v.y)] else (v.x, v.y) :: lineLoop c x1 y1 fuel (v.next c)

/-- The points of `drawLine`, the endpoints in them (R145). Every step that is not the last moves by one in `x` or `y`,
so `dx + dy + 1` points are enough fuel. -/
def linePoints (x0 y0 x1 y1 : Int) : List (Int × Int) :=
  let c := LineConsts.of x0 y0 x1 y1
  lineLoop c x1 y1 (c.dx.toNat + c.dy.toNat + 1) ⟨x0, y0, c.dx - c.dy⟩

/-- The pixels of `drawLine`: its points lie between its endpoints, so none is negative (R145). -/
def linePixels (x0 y0 x1 y1 : Nat) : List (Nat × Nat) :=
  (linePoints x0 y0 x1 y1).map fun p => (p.1.toNat, p.2.toNat)

/-- The glyph index of a character: `(c - space) * 8` for space (32) to tilde (126), else 0 (R146). -/
def glyphIndex (c : Nat) : Nat := if 32 ≤ c ∧ c ≤ 126 then (c - 32) * 8 else 0

/-- `drawChar`: 64 SETPIXes, column by column, cleared bits written as well as set ones (R146). -/
def charCommands (glyph : Nat → Byte) (c x y : Nat) : List Instr :=
  (List.range 8).flatMap fun i => (List.range 8).map fun j =>
    .setpix (x + i) (y + j) ((glyph (glyphIndex c + i)).getLsbD j)

/-- A character and the cell it is drawn in. -/
structure Cell where
  c : Nat
  x : Nat
  y : Nat
  deriving DecidableEq, Repr

/-- Where `x` and `y` stand after a character: advance, then the width test (R147, D33). -/
def nextCell (width x y : Nat) : Nat × Nat := if width ≤ x + 8 + 8 then (0, y + 8) else (x + 8, y)

/-- The cells `drawString` draws, on a display of `width` by `height` pixels: per character draw, advance, width test,
height test (R147, D33). -/
def stringCells (width height : Nat) : List Nat → Nat → Nat → List Cell
  | [], _, _ => []
  | c :: cs, x, y =>
    let p := nextCell width x y
    ⟨c, x, y⟩ :: if height ≤ p.2 + 8 then [] else stringCells width height cs p.1 p.2

/-- `drawString` (R147). -/
def stringCommands (glyph : Nat → Byte) (width height : Nat) (text : List Nat) (x y : Nat) : List Instr :=
  (stringCells width height text x y).flatMap fun k => charCommands glyph k.c k.x k.y

/-- The expansion of a pseudo-operation on a display of the geometry `g`; none where the routine refuses its operands
(R140 to R147). -/
def Pseudo.expand (d : HostData) (g : Cfg) (p : Pseudo) : Option (List Instr) :=
  match p with
  | .construct width height addr => some (.init width height addr :: d.initSeq.map .sendcmd)
  | .flush => some [.flush]
  | .setPixel x y value => some [.setpix x y value]
  | .fillAll value => some [.fill value]
  | .drawRect top left w h value filled => rectCommands top left w h value filled
  | .drawHLine x0 x1 y value => some (plot value (hlinePixels x0 x1 y))
  | .drawVLine x y0 y1 value => some (plot value (vlinePixels x y0 y1))
  | .drawLine x0 y0 x1 y1 value => some (plot value (linePixels x0 y0 x1 y1))
  | .drawChar c x y => some (charCommands d.glyph c x y)
  | .drawString text x y => some (stringCommands d.glyph g.width g.height text x y)

/-- How a host program stands after some steps of the machine. -/
inductive HostRun where
  /-- Every command has been answered `OK` (R184). -/
  | finished (s : State)
  /-- A command was answered with a status other than `OK`, which ends the routine (R149). -/
  | failed (rsp : CmdWord) (s : State)
  /-- A hardware reset ended a command without a response (R181), and the routine with it (log entry 21). -/
  | cutOff (s : State)
  /-- A command has not been answered in the steps allowed: perhaps it never is (R189). -/
  | waiting (s : State)
  /-- The model faulted. -/
  | faulted (f : Fault)
  /-- The model has no meaning for the command. -/
  | refused (r : Refusal)
  deriving DecidableEq, Repr

/-- The response that the step from `s` to `t` logged, if it logged one (R26, R170). A step that empties the log, a
reset, logs none (R180). -/
def newResponse (s t : State) : Option CmdWord := ((t.log.drop s.log.length).filterMap Event.response?).head?

/-- What a host does after a step from `s`: go on to the next command with `ok` if the step answered `OK`, stop at any
other status (R149), and without an answer do as `wait` says. -/
def observe (s : State) (o : Host.Outcome State Fault Refusal) (ok wait : State → HostRun) : HostRun :=
  match o with
  | .next t =>
    match newResponse s t with
    | some w => if statusField w = Status.ok.code then ok t else .failed w t
    | none => wait t
  | .fault f => .faulted f
  | .refused r => .refused r

/-- Step the machine until the command it has taken is answered, and go on with `ok` if the answer is `OK`, for at most
`fuel` steps. A hardware reset ends the command without a response (R181). -/
def awaitResponse (ok : State → HostRun) : Nat → State → HostRun
  | 0, s => .waiting s
  | fuel + 1, s => observe s (step s) ok (if s.sampled.reset then .cutOff else awaitResponse ok fuel)

/-- The step in which a ready block takes the command `i`. Where `i` has an encoding the host hands over its word. Where
an operand does not fit its field there is no word, and the spec says nothing of such a line of a program (R65): the
step is then the operation's own rule on the operands as integers (R7), so that an oversized pixel is R75's fault and an
oversized geometry `BAD_GEOMETRY` (R81, U7), and never the operand reduced to its field (DESIGN CHOICE, log entry 21). -/
def issue (i : Instr) (s : State) : Host.Outcome State Fault Refusal :=
  if i.wellFormed then step (s.setHostWords (encode i :: s.hostWords)) else exec i s.afterSample

/-- Hold the command `i` until the block accepts it (R186), also over a hardware reset, then await its response: at most
`fuel` steps in all. -/
def runCommand (i : Instr) (ok : State → HostRun) : Nat → State → HostRun
  | 0, s => .waiting s
  | fuel + 1, s =>
    if s.Accepts then observe s (issue i s) ok (awaitResponse ok fuel)
    else
      match step s with
      | .next t => runCommand i ok fuel t
      | .fault f => .faulted f
      | .refused r => .refused r

/-- A host that issues the commands of a list in order, each to its response, at most `fuel` steps each, and stops at
the first response that is not `OK` (R65, R149). -/
def runHost (fuel : Nat) : List Instr → State → HostRun
  | [], s => .finished s
  | i :: is, s => runCommand i (runHost fuel is) fuel s

end Sys2Proof.Machine
end

