-- ==== Sys2Proof/Safety.lean ====
section
/-! DEFINITION. What the claims rest on: the invariant of the block, what the host owes, and runs of several steps. -/

namespace Sys2Proof.Machine

/-- The latches of a created block (R14, R81, R82): a legal geometry that fits the memories, the derived latches as R4
derives them. -/
structure Cfg.Latched (c : Cfg) (maxImageLen : Nat) : Prop where
  geometry : GeometryOk c.width c.height
  pages : c.pages = pagesOf c.height
  imageLen : c.imageLen = imageLenOf c.width c.height
  fits : c.imageLen ≤ maxImageLen

/-- The registers of the burst channel agree with its contract while a transfer runs (R20, R21, R117, R122, R123). -/
structure Burst.Running (b : Burst) (p : Config.Params) (c : Cfg) : Prop where
  src : b.src = 0
  srcInc : b.srcInc = true
  dst : b.dst = p.dataRegAddr
  dstInc : b.dstInc = false
  width : b.width = p.wordBits
  pace : b.pace = .txReady
  count : b.count = c.imageLen
  progress : b.pos + b.remaining = c.imageLen
  report : b.done = !b.active
  finished : b.active = false → b.remaining = 0

/-- What the phase says of the rest of the state (R17, R18, R25, R112, R116). -/
def PhaseInv (s : State) : Prop :=
  match s.phase with
  | .idle => s.staging = [] ∧ s.window = [] ∧ s.bc.active = false
  | .addressWindowSet => s.staging = [] ∧ s.bc.active = false ∧ s.cmdReq ≠ none
  | .staged => s.staging = [] ∧ s.bc.active = false ∧ s.window = [] ∧ s.cmdReq = none
  | .armed => s.staging = frameOf s ∧ s.bc.active = false ∧ s.window = [] ∧ s.cmdReq = none
  | .completed => s.staging = frameOf s ∧ s.bc.Running s.params s.cfg ∧ s.window = [] ∧ s.cmdReq = none

/-- The invariant of the block. It holds at reset and every step keeps it. -/
structure Inv (s : State) : Prop where
  /-- The parameters meet the constraints of R3. -/
  params : s.params.Legal
  /-- The image memory is in its canonical form. -/
  canonical : s.image.wf
  /-- No index of the image memory is past its capacity (R15, R82). -/
  capacity : ∀ c ∈ s.image, c.1 < s.params.maxImageLen
  /-- A created block has legal latches (R14). -/
  latched : s.created = true → s.cfg.Latched s.params.maxImageLen
  /-- `image[0] = 0x40` in every state with `created` true (R16, R192). -/
  prefixByte : s.created = true → s.image.read 0 = Config.ctrlData
  /-- A block that failed to allocate is not created (R19, R161). -/
  fatal : s.allocFailed = true → s.created = false
  /-- An operation that takes more than one step runs only on a created block (R163). -/
  busy : s.phase ≠ .idle ∨ s.cmdReq ≠ none → s.created = true
  /-- An outstanding bus write is a single-command frame to the device (R60, R101). -/
  request : ∀ r, s.cmdReq = some r → r.addr = s.cfg.devAddr ∧ r.b0 = Config.ctrlCmd
  /-- What the phase says of the rest of the state. -/
  phases : PhaseInv s

/-- What the host owes for an operation on pixels: each pixel in-range and in-image (R190). -/
def HostDuty (c : Cfg) (i : Instr) : Prop :=
  match i with
  | .locate x y => c.InRange x y
  | .setpix x y _ => c.InRange x y ∧ c.InImage (byteIndex x y)
  | .getpix x y => c.InRange x y ∧ c.InImage (byteIndex x y)
  | .fill _ => c.FullyAddressable
  | .init _ _ _ => True
  | .sendcmd _ => True
  | .flush => True

/-- `t` is the state after `n` steps from `s`, each of them answering a next state. -/
inductive Steps : Nat → State → State → Prop where
  | refl (s : State) : Steps 0 s s
  | next {n : Nat} {s t u : State} : Steps n s t → step t = .next u → Steps (n + 1) s u

/-- No coming step samples a hardware reset. -/
abbrev NoReset (s : State) : Prop := ∀ inp ∈ s.inputs, inp.reset = false

/-- `t` is `s` with one response logged, its fields as given and bits 27:25 zero (R58). -/
def Answers (s t : State) (st : Status) (idx : Nat) (mask : Byte) (pix : Bool) : Prop :=
  ∃ w : CmdWord, t.log = s.log ++ [.rsp w] ∧ statusField w = st.code ∧ slice w 25 3 = 0#3 ∧
    (idxField w).toNat = idx ∧ maskField w = mask ∧ pixField w = pix

/-- The block takes the word `w` from the command port in its next step: no operation is in progress and no reset is
sampled (R150, R186). -/
abbrev Takes (s : State) (w : CmdWord) (rest : List CmdWord) : Prop :=
  s.Ready ∧ s.sampled.reset = false ∧ s.hostWords = w :: rest

/-- The state of the block once it has taken a word and before it runs it: the word and the step's inputs are used up. -/
def taken (s : State) (rest : List CmdWord) : State := { s with hostWords := rest, inputs := s.inputs.tail }

/-- The word is illegal, bit by bit: a reserved opcode, or a nonzero bit that its format reserves (R51 to R55, R57). -/
def IllegalBits (w : CmdWord) : Prop :=
  let opc := (slice w 28 4).toNat
  opc = 0 ∨ 8 ≤ opc ∨ (opc = 2 ∨ opc = 4) ∧ slice w 24 4 ≠ 0#4 ∨ opc = 3 ∧ slice w 25 3 ≠ 0#3 ∨
    opc = 5 ∧ (slice w 25 3 ≠ 0#3 ∨ slice w 0 24 ≠ 0#24) ∨ opc = 6 ∧ slice w 8 20 ≠ 0#20 ∨
    opc = 7 ∧ slice w 0 28 ≠ 0#28

/-- Checks 1 to 5 of R167 in their order, written from the rule: the status of the first that fires on a word. -/
def firstCheck (s : State) (w : CmdWord) : Option Status :=
  if s.allocFailed then some .allocFail
  else
    match decode w with
    | .error _ => some .illegalCmd
    | .ok (.init width height _) =>
      if s.created then some .alreadyCreated
      else if ¬GeometryOk width height then some .badGeometry
      else if s.params.maxImageLen < height / 8 * width + 1 then some .allocFail
      else none
    | .ok _ => if s.created then none else some .notCreated

/-- The data-register writes of a frame: the image bytes in index order, the marker on the last (R125). -/
def frameEvents (s : State) : List Event :=
  ((List.range (s.cfg.imageLen - 1)).map fun i => .data (s.image.read i).toNat) ++
    [.data ((s.image.read (s.cfg.imageLen - 1)).toNat + 2 ^ s.params.termBit)]

/-- The bus writes of a list of command bytes, each answered `ok` (R60, R125). -/
def okWrites (s : State) (bs : List Byte) : List Event := bs.map fun b => .cmd s.cfg.devAddr 0x80#8 b .ok

/-- What a FLUSH that answers `OK` appends to the log (R125). -/
def okFlushLog (s : State) : List Event :=
  okWrites s (addressWindow s.params s.cfg) ++
    [.arm 0 s.params.dataRegAddr s.params.wordBits s.cfg.imageLen] ++ frameEvents s ++ [.done, .rsp 0x00000000#32]

/-- What a FLUSH that answers `BUS_ERROR` appends to the log, its bus write of the byte `b` after the bytes `sent` being
the one that failed (R125). -/
def failedFlushLog (s : State) (sent : List Byte) (b : Byte) : List Event :=
  okWrites s sent ++ [.cmd s.cfg.devAddr 0x80#8 b .error, .rsp 0x20000000#32]

/-- Every response in the log has the form of R58: bits 27:25 zero, a status of R160, and result fields zero where the
status is not `OK`. -/
abbrev WellFormedResponse (w : CmdWord) : Prop :=
  slice w 25 3 = 0#3 ∧ (statusField w).toNat ≤ 6 ∧
    (statusField w ≠ 0#4 → idxField w = 0#16 ∧ maskField w = 0#8 ∧ pixField w = false)

/-- Every event of the log has the form the outward interfaces give it: frames begin with `0x80` (R60), staging words fit
`WORD_BITS` (R62), responses are those of R58. -/
def LogForm (s : State) : Prop :=
  ∀ e ∈ s.log, match e with
    | .cmd _ b0 _ _ => b0 = 0x80#8
    | .arm src dst width count =>
      src = 0 ∧ dst = s.params.dataRegAddr ∧ width = s.params.wordBits ∧ 2 ≤ count ∧ count ≤ s.params.maxImageLen
    | .data w => w < 2 ^ s.params.wordBits
    | .done => True
    | .rsp w => WellFormedResponse w

/-- The in-image bytes that belong to no pixel are zero (R76). -/
def GapBytesZero (s : State) : Prop :=
  s.created = true → ∀ i, 1 ≤ i → i < s.cfg.imageLen → s.cfg.pages ≤ (i - 1) % 8 → s.image.read i = 0#8

end Sys2Proof.Machine
end

