-- ==== Sys2Proof/Certificates/Slice0/Obligations.lean ====
section
/-! DEFINITION. The statements for the provers. Each docstring names the rules of spec/ the statement formalises. An
unchanged rest of the state is stated as one equation: the new state, with the fields the instruction writes put back,
is the old one. -/

open Sys2Proof Sys2Proof.Machine

/-! ### Encoding -/

/-- Decoding the encoding of any well-formed instruction gives it back (R50 to R56). -/
def Obligations.DecodeOfEncode : Prop := ∀ i : Instr, i.WellFormed → decode (encode i) = .ok i

/-- Every legal word is the encoding of the well-formed instruction it decodes to: no bit of it is dropped (R50 to
R57). -/
def Obligations.EncodeOfDecode : Prop :=
  ∀ (w : CmdWord) (i : Instr), decode w = .ok i → i.WellFormed ∧ encode i = w

/-- The decoder is the opcode map: a word is an instruction of the row it selects, no word selects two rows, and a word
that selects none is illegal (R56). -/
def Obligations.OpcodeMapSelects : Prop :=
  ∀ w : CmdWord,
    (∀ i, decode w = .ok i → ∃ r ∈ opcodeMap, r.Selects w ∧ r.mnemonic = i.mnemonic) ∧
    (∀ r ∈ opcodeMap, r.Selects w → ∃ i, decode w = .ok i ∧ i.mnemonic = r.mnemonic) ∧
    (∀ r ∈ opcodeMap, ∀ r' ∈ opcodeMap, r.Selects w → r'.Selects w → r = r') ∧
    ((∀ r ∈ opcodeMap, ¬r.Selects w) → ∃ e, decode w = .error e)

/-- The illegal words are those with a reserved opcode or a nonzero reserved bit, the all-zero word among them; the block
answers one `ILLEGAL_CMD` and changes nothing else (R57, R164). -/
def Obligations.IllegalWordAnswered : Prop :=
  (∀ w : CmdWord, (∃ e, decode w = .error e) ↔ IllegalBits w) ∧ IllegalBits 0#32 ∧
  ∀ (s : State) (w : CmdWord) (rest : List CmdWord), Takes s w rest → s.allocFailed = false → IllegalBits w →
    ∃ t, step s = .next t ∧ Answers s t .illegalCmd 0 0#8 false ∧ { t with log := s.log } = taken s rest

/-- Words written out from the encodings of R51 to R55 decode to the instructions they stand for. -/
def Obligations.SampleWordsDecode : Prop :=
  decode 0b0001_0111100_001000000_000010000000#32 = .ok (.init 128 64 0x3C#7) ∧
  decode 0b0010_0000_000000111111_000001111111#32 = .ok (.locate 127 63) ∧
  decode 0b0011_000_1_000000001001_000000000001#32 = .ok (.setpix 1 9 true) ∧
  decode 0b0100_0000_000000001001_000000000001#32 = .ok (.getpix 1 9) ∧
  decode 0b0101_000_1_000000000000000000000000#32 = .ok (.fill true) ∧
  decode 0b0110_00000000000000000000_10101111#32 = .ok (.sendcmd 0xAF#8) ∧
  decode 0b0111_0000000000000000000000000000#32 = .ok .flush

/-! ### The command cycle -/

/-- A step runs the decoded instruction: when the block takes a word that decodes to an instruction, the step is `exec`
of it, on the state with the word and the step's inputs used up (R150). -/
def Obligations.StepRunsDecoded : Prop :=
  ∀ (s : State) (w : CmdWord) (rest : List CmdWord) (i : Instr),
    Takes s w rest → decode w = .ok i → step s = exec i (taken s rest)

/-- The state `withFetchWord` gives takes that very word in its next step, from any state (R150; the placing of the word
is the model's own, log entry 6). -/
def Obligations.FetchWordIsTaken : Prop :=
  ∀ (s : State) (i : Instr), i.WellFormed →
    step (s.withFetchWord 32 (encode i).toNat) =
      exec i { s with phase := .idle, cmdReq := none, inputs := s.inputs.tail }

/-- The command port accepts a word only when no operation is in progress, and holds it until then, neither lost nor
executed early; what lifts the hold is the response of the operation (R186). -/
def Obligations.WordHeldWhileBusy : Prop :=
  ∀ s t : State, s.sampled.reset = false → step s = .next t →
    (¬s.Ready → t.hostWords = s.hostWords) ∧
    (¬s.Ready → t.Ready → ∃ w, t.log.getLast? = some (.rsp w)) ∧
    (s.Ready → ∀ w rest, s.hostWords = w :: rest → t.hostWords = rest)

/-- With no operation in progress and no word to take the block waits: a step changes nothing but that its inputs are used
up (R150, R180; that a wait is a step is log entry 11). -/
def Obligations.WaitsForWord : Prop :=
  ∀ s : State, s.Ready → s.sampled.reset = false → s.hostWords = [] → step s = .next (taken s [])

/-- The checks of a command word are made in the order of R167 and the first that fires decides the one status answered,
with no other effect than that a new allocation failure is latched; a bus write that returns `error` answers
`BUS_ERROR`; otherwise the answer, in this step or a later one, is `OK`. -/
def Obligations.FirstCheckDecides : Prop :=
  ∀ s : State,
    (∀ w rest st, Takes s w rest → firstCheck s w = some st →
      ∃ t, step s = .next t ∧ Answers s t st 0 0#8 false ∧ t.allocFailed = decide (st = .allocFail) ∧
        { t with log := s.log, allocFailed := s.allocFailed } = taken s rest) ∧
    (∀ w rest t, Takes s w rest → firstCheck s w = none → step s = .next t →
      t.log = s.log ∨ ∃ idx mask pix, Answers s t .ok idx mask pix) ∧
    (∀ r, s.cmdReq = some r → s.sampled.reset = false → s.sampled.cmdAnswer = some .error →
      ∃ t, step s = .next t ∧ t.log = s.log ++ [.cmd r.addr r.b0 r.b1 .error, .rsp 0x20000000#32]) ∧
    (∀ t w, ¬s.Ready → s.sampled.reset = false → step s = .next t → t.log ≠ s.log → t.log.getLast? = some (.rsp w) →
      (s.cmdReq ≠ none ∧ s.sampled.cmdAnswer = some .error) ∨ w = 0x00000000#32)

/-- Every operation but INIT answers `NOT_CREATED` before a successful INIT, and changes nothing (R163). -/
def Obligations.NotCreatedRefused : Prop :=
  ∀ (s : State) (i : Instr), s.allocFailed = false → s.created = false → (∀ w h a, i ≠ .init w h a) →
    ∃ t, exec i s = .next t ∧ Answers s t .notCreated 0 0#8 false ∧ { t with log := s.log } = s

/-! ### Pixel addressing -/

/-- LOCATE of an in-range pixel answers the index `(y div 8) + x * 8 + 1` and the mask `1 << (y mod 8)`, whether or not
the index is in-image, and changes nothing (R70, R71; that bit 0 is the least significant one is log entry 13). -/
def Obligations.LocateAnswers : Prop :=
  ∀ (s : State) (x y : Nat), s.allocFailed = false → s.created = true → (Instr.locate x y).WellFormed →
    x < s.cfg.width → y < s.cfg.height →
    ∃ t, exec (.locate x y) s = .next t ∧ Answers s t .ok (y / 8 + x * 8 + 1) (1#8 <<< (y % 8)) false ∧
      { t with log := s.log } = s

/-- The largest index any command word can name is 33272, which fits the 16-bit field, and a mask has exactly one bit set
(R59). -/
def Obligations.ResponseFieldsFit : Prop :=
  (∀ x y, (Instr.locate x y).WellFormed → byteIndex x y ≤ 33272) ∧ byteIndex 4095 4095 = 33272 ∧ 33272 < 2 ^ 16 ∧
  ∀ y, ∃ b < 8, (pixelMask y).getLsbD b = true ∧ ∀ b', (pixelMask y).getLsbD b' = true → b' = b

/-- The range of the mapping for in-range pixels, and where its bounds are reached (R72). -/
def Obligations.LocateRange : Prop :=
  ∀ width height x y, GeometryOk width height → x < width → y < height →
    bitPosition y ≤ 7 ∧ 1 ≤ byteIndex x y ∧ byteIndex x y ≤ height / 8 + 8 * (width - 1) ∧ byteIndex x y ≠ 0 ∧
    (byteIndex x y = 1 ↔ x = 0 ∧ y < 8) ∧
    (byteIndex x y = height / 8 + 8 * (width - 1) ↔ x = width - 1 ∧ height - 8 ≤ y)

/-- With at most 8 pages two different in-range pixels never share an index and a bit; with more they can, and INIT
refuses such a geometry (R73). -/
def Obligations.LocateInjective : Prop :=
  (∀ pages width x y x' y', pages ≤ 8 → x < width → x' < width → y < 8 * pages → y' < 8 * pages →
    byteIndex x y = byteIndex x' y' → bitPosition y = bitPosition y' → x = x' ∧ y = y') ∧
  (byteIndex 0 64 = 9 ∧ byteIndex 1 0 = 9 ∧ bitPosition 64 = 0 ∧ bitPosition 0 = 0) ∧
  ∀ width pages, 8 < pages → ¬GeometryOk width (8 * pages)

/-- A legal geometry is fully addressable exactly when it has 8 pages or one column; with 8 pages the mapping is onto the
bits of the bytes `1 .. 8 * WIDTH`, of which the last is the last in-image index (R74). -/
def Obligations.FullyAddressableExactly : Prop :=
  (∀ width height addr, GeometryOk width height →
    ((Cfg.ofOperands width height addr).FullyAddressable ↔ height / 8 = 8 ∨ width = 1)) ∧
  (∀ width i b, 1 ≤ i → i ≤ 8 * width → b < 8 →
    ∃ x y, x < width ∧ y < 64 ∧ byteIndex x y = i ∧ bitPosition y = b) ∧
  ∀ width addr, (Cfg.ofOperands width 64 addr).imageLen - 1 = 8 * width

/-- The only pixel of a display of at most 8 pages that maps to the bit `b` of the byte `i` (R76). -/
def Obligations.LocateInverse : Prop :=
  ∀ i b x y, 1 ≤ i → b < 8 → y < 64 →
    ((byteIndex x y = i ∧ bitPosition y = b) ↔ (x = (i - 1) / 8 ∧ y = 8 * ((i - 1) % 8) + b))

/-- LOCATE, SETPIX and GETPIX of a pixel that is not in-range are a fault of the model: the hardware's result is
undefined (R75, U1). -/
def Obligations.OutOfRangeFaults : Prop :=
  ∀ (s : State) (x y : Nat) (v : Bool), s.allocFailed = false → s.created = true →
    s.cfg.width ≤ x ∨ s.cfg.height ≤ y →
    exec (.locate x y) s = .fault .pixelOutOfRange ∧ exec (.setpix x y v) s = .fault .pixelOutOfRange ∧
      exec (.getpix x y) s = .fault .pixelOutOfRange

/-! ### INIT -/

/-- INIT before a successful INIT: a geometry that is not legal answers `BAD_GEOMETRY` and changes nothing; one that does
not fit answers `ALLOC_FAIL` and latches that alone; any other latches the geometry and the address, leaves
`image[0] = 0x40` and every other in-image byte zero, sets `created`, answers `OK` and changes nothing else (R80; that the
bytes from `IMAGE_LEN` on are as they were is log entry 15). -/
def Obligations.InitCreates : Prop :=
  ∀ (s : State) (width height : Nat) (addr : DevAddr), s.image.wf → s.allocFailed = false → s.created = false →
    (¬GeometryOk width height →
      ∃ t, exec (.init width height addr) s = .next t ∧ Answers s t .badGeometry 0 0#8 false ∧
        { t with log := s.log } = s) ∧
    (GeometryOk width height → s.params.maxImageLen < height / 8 * width + 1 →
      ∃ t, exec (.init width height addr) s = .next t ∧ Answers s t .allocFail 0 0#8 false ∧ t.allocFailed = true ∧
        { t with log := s.log, allocFailed := s.allocFailed } = s) ∧
    (GeometryOk width height → height / 8 * width + 1 ≤ s.params.maxImageLen →
      ∃ t, exec (.init width height addr) s = .next t ∧ Answers s t .ok 0 0#8 false ∧ t.created = true ∧
        t.cfg = ⟨width, height, height / 8, addr, height / 8 * width + 1⟩ ∧ t.image.wf ∧ t.image.read 0 = 0x40#8 ∧
        (∀ i, 1 ≤ i → i < height / 8 * width + 1 → t.image.read i = 0x00#8) ∧
        (∀ i, height / 8 * width + 1 ≤ i → t.image.read i = s.image.read i) ∧
        { t with log := s.log, created := s.created, cfg := s.cfg, image := s.image } = s)

/-- INIT of a created block answers `ALREADY_CREATED` and changes nothing, whatever its operands (R166). -/
def Obligations.InitTwiceRefused : Prop :=
  ∀ (s : State) (width height : Nat) (addr : DevAddr), s.allocFailed = false → s.created = true →
    ∃ t, exec (.init width height addr) s = .next t ∧ Answers s t .alreadyCreated 0 0#8 false ∧
      { t with log := s.log } = s

/-- INIT of a geometry outside the legal ones answers `BAD_GEOMETRY` and changes nothing, and a later INIT of a legal
geometry that fits succeeds (R81, R165). -/
def Obligations.InitBadGeometry : Prop :=
  ∀ (s : State) (width height : Nat) (addr : DevAddr), s.allocFailed = false → s.created = false →
    width = 0 ∨ 256 < width ∨ height % 8 ≠ 0 ∨ height = 0 ∨ 64 < height →
    ∃ t, exec (.init width height addr) s = .next t ∧ Answers s t .badGeometry 0 0#8 false ∧
      { t with log := s.log } = s ∧
      ∀ width' height' addr', GeometryOk width' height' → height' / 8 * width' + 1 ≤ s.params.maxImageLen →
        ∃ u, exec (.init width' height' addr') t = .next u ∧ Answers t u .ok 0 0#8 false ∧ u.created = true

/-- INIT of a legal geometry whose image does not fit latches `alloc_failed`, answers `ALLOC_FAIL` and changes nothing
else; while `alloc_failed` is set every command word, legal or not, is answered `ALLOC_FAIL` with no other change; and
only a reset clears it (R161). -/
def Obligations.AllocationFailureIsFatal : Prop :=
  (∀ (s : State) (width height : Nat) (addr : DevAddr), s.allocFailed = false → s.created = false →
    GeometryOk width height → s.params.maxImageLen < height / 8 * width + 1 →
    ∃ t, exec (.init width height addr) s = .next t ∧ Answers s t .allocFail 0 0#8 false ∧ t.allocFailed = true ∧
      { t with log := s.log, allocFailed := s.allocFailed } = s) ∧
  (∀ (s : State) (w : CmdWord) (rest : List CmdWord), Takes s w rest → s.allocFailed = true →
    ∃ t, step s = .next t ∧ Answers s t .allocFail 0 0#8 false ∧ { t with log := s.log } = taken s rest) ∧
  (∀ s t : State, s.allocFailed = true → s.sampled.reset = false → step s = .next t → t.allocFailed = true) ∧
  ∀ s t : State, s.sampled.reset = true → step s = .next t → t.allocFailed = false

/-! ### SETPIX, GETPIX and FILL -/

/-- SETPIX of an in-range, in-image pixel sets bit `y mod 8` of the byte `(y div 8) + x * 8 + 1` to `v`, changes no other
bit of the image and nothing else, and answers `OK` (R83, R87; that bit 0 is the least significant one is log entry
13). -/
def Obligations.SetpixChangesOneBit : Prop :=
  ∀ (s : State) (x y : Nat) (v : Bool), s.image.wf → s.allocFailed = false → s.created = true →
    x < s.cfg.width → y < s.cfg.height → y / 8 + x * 8 + 1 < s.cfg.imageLen →
    ∃ t, exec (.setpix x y v) s = .next t ∧ Answers s t .ok 0 0#8 false ∧ t.image.wf ∧
      ((t.image.read (y / 8 + x * 8 + 1)).getLsbD (y % 8) = v) ∧
      (∀ b, b < 8 → b ≠ y % 8 →
        (t.image.read (y / 8 + x * 8 + 1)).getLsbD b = (s.image.read (y / 8 + x * 8 + 1)).getLsbD b) ∧
      (∀ i, i ≠ y / 8 + x * 8 + 1 → t.image.read i = s.image.read i) ∧
      { t with log := s.log, image := s.image } = s

/-- Writing the value a pixel already has leaves the image as it is, as data (R83; that bit 0 is the least significant one
is log entry 13). -/
def Obligations.SetpixIdempotent : Prop :=
  ∀ (s t : State) (x y : Nat) (v : Bool), s.image.wf →
    (s.image.read (y / 8 + x * 8 + 1)).getLsbD (y % 8) = v → exec (.setpix x y v) s = .next t → t.image = s.image

/-- GETPIX of an in-range, in-image pixel answers its bit of the image and changes nothing (R85; that bit 0 is the least
significant one is log entry 13). -/
def Obligations.GetpixAnswers : Prop :=
  ∀ (s : State) (x y : Nat), s.allocFailed = false → s.created = true →
    x < s.cfg.width → y < s.cfg.height → y / 8 + x * 8 + 1 < s.cfg.imageLen →
    ∃ t, exec (.getpix x y) s = .next t ∧
      Answers s t .ok 0 0#8 ((s.image.read (y / 8 + x * 8 + 1)).getLsbD (y % 8)) ∧ { t with log := s.log } = s

/-- After SETPIX, GETPIX of the same pixel answers the value set, and GETPIX of any other pixel answers what it answered
before, its bit of the image (R87; that bit 0 is the least significant one is log entry 13). -/
def Obligations.GetpixAfterSetpix : Prop :=
  ∀ (s : State) (x y : Nat) (v : Bool), s.image.wf → s.allocFailed = false → s.created = true → s.cfg.height ≤ 64 →
    s.cfg.InRange x y → s.cfg.InImage (byteIndex x y) →
    ∃ t, exec (.setpix x y v) s = .next t ∧
      (∃ u, exec (.getpix x y) t = .next u ∧ Answers t u .ok 0 0#8 v) ∧
      ∀ x' y', s.cfg.InRange x' y' → s.cfg.InImage (byteIndex x' y') → (x' ≠ x ∨ y' ≠ y) →
        ∃ u p, exec (.getpix x' y') t = .next u ∧ Answers t u .ok 0 0#8 p ∧
          p = (s.image.read (byteIndex x' y')).getLsbD (bitPosition y')

/-- SETPIX and GETPIX of an in-range pixel that is not in-image, and FILL in a geometry that has one, are a fault of the
model: the hardware's effect is undefined (R84, R86, U2). -/
def Obligations.NotInImageFaults : Prop :=
  ∀ (s : State) (x y : Nat) (v : Bool), s.allocFailed = false → s.created = true →
    x < s.cfg.width → y < s.cfg.height → s.cfg.imageLen ≤ y / 8 + x * 8 + 1 →
    exec (.setpix x y v) s = .fault .pixelNotInImage ∧ exec (.getpix x y) s = .fault .pixelNotInImage ∧
      exec (.fill v) s = .fault .pixelNotInImage

/-- FILL in a fully addressable geometry sets the bit of every in-range pixel to `v`, changes no bit that belongs to no
pixel, `image[0]` among them, and nothing else, and answers `OK` (R86; that bit 0 is the least significant one is log
entry 13). -/
def Obligations.FillSetsEveryPixel : Prop :=
  ∀ (s : State) (v : Bool), s.image.wf → s.allocFailed = false → s.created = true → s.cfg.FullyAddressable →
    ∃ t, exec (.fill v) s = .next t ∧ Answers s t .ok 0 0#8 false ∧ t.image.wf ∧
      (∀ x y, x < s.cfg.width → y < s.cfg.height → (t.image.read (y / 8 + x * 8 + 1)).getLsbD (y % 8) = v) ∧
      (∀ i b, b < 8 → (∀ x y, x < s.cfg.width → y < s.cfg.height → ¬(i = y / 8 + x * 8 + 1 ∧ b = y % 8)) →
        (t.image.read i).getLsbD b = (s.image.read i).getLsbD b) ∧
      t.image.read 0 = s.image.read 0 ∧
      { t with log := s.log, image := s.image } = s

/-- With 8 pages, FILL leaves every pixel byte of the image all ones or all zeros, whatever it held before (R88). -/
def Obligations.FillWholeBytes : Prop :=
  ∀ (s : State) (v : Bool) (width : Nat) (addr : DevAddr), s.image.wf → s.allocFailed = false → s.created = true →
    s.cfg = Cfg.ofOperands width 64 addr →
    ∃ t, exec (.fill v) s = .next t ∧ t.image.read 0 = s.image.read 0 ∧
      ∀ i, 1 ≤ i → i < s.cfg.imageLen → t.image.read i = if v then 0xFF#8 else 0x00#8

/-- The image FILL leaves does not depend on the order in which it visits the pixels (R86). -/
def Obligations.FillOrderIrrelevant : Prop :=
  ∀ (m : Memory) (len width height : Nat) (v : Bool) (l : List (Nat × Nat)), m.wf →
    l.Perm (pixelDomain width height) → fillPixels len v l m = fillPixels len v (pixelDomain width height) m

/-! ### The command channel -/

/-- SENDCMD asks for one bus write of the frame `0x80, cmd` to the device and does nothing else until it is answered
(R100, R101). -/
def Obligations.SendcmdRequests : Prop :=
  ∀ (s : State) (cmd : Byte), s.allocFailed = false → s.created = true →
    ∃ t, exec (.sendcmd cmd) s = .next t ∧ t.cmdReq = some ⟨s.cfg.devAddr, 0x80#8, cmd⟩ ∧
      { t with cmdReq := s.cmdReq } = s

/-- SENDCMD, answered in the step after its request: one `Cmd` event with the outcome, then `OK` or `BUS_ERROR`, no retry
and no other change of state; the block is ready for the next command (R100, R102, R151). -/
def Obligations.SendcmdInTwoSteps : Prop :=
  ∀ (s : State) (cmd : Byte) (rest : List CmdWord) (o : CmdOutcome) (i1 i2 : Inputs) (more : List Inputs),
    Takes s (encode (.sendcmd cmd)) rest → s.inputs = i1 :: i2 :: more → i2.reset = false → i2.cmdAnswer = some o →
    s.allocFailed = false → s.created = true → s.window = [] →
    ∃ t, Steps 2 s t ∧ t.Ready ∧
      t.log = s.log ++ [.cmd s.cfg.devAddr 0x80#8 cmd o,
        .rsp (match o with | .ok => 0x00000000#32 | .error => 0x20000000#32)] ∧
      { t with log := s.log } = { s with hostWords := rest, inputs := more }

/-- While a bus write is outstanding and the channel does not answer, no step changes anything, however many there are:
no command is accepted, nothing is logged, there is no timeout (R103; that a wait is a step, which only uses up its
inputs, is log entry 11). -/
def Obligations.UnansweredWriteBlocks : Prop :=
  ∀ (n : Nat) (s : State) (r : CmdRequest), s.cmdReq = some r →
    (∀ inp ∈ s.inputs, inp.reset = false ∧ inp.cmdAnswer = none) →
    ∀ t, Steps n s t ↔ t = { s with inputs := s.inputs.drop n }

/-! ### FLUSH -/

/-- FLUSH enters phase AddressWindowSet with the whole of `AW` to send: the column prefix, `0`, `WIDTH - 1`, the page
prefix, `0`, `PAGES - 1`; nothing else changes yet (R63, R110; that the accepting step makes the request of the first byte
is log entry 7). -/
def Obligations.FlushEntersWindowPhase : Prop :=
  ∀ s : State, s.allocFailed = false → s.created = true → s.cfg.Latched s.params.maxImageLen →
    ∃ t, exec .flush s = .next t ∧ t.phase = .addressWindowSet ∧
      (∃ a b first : Byte, a.toNat = s.cfg.width - 1 ∧ b.toNat = s.cfg.pages - 1 ∧
        first :: t.window = s.params.colPrefix ++ [0#8, a] ++ s.params.pagePrefix ++ [0#8, b] ∧
        t.cmdReq = some ⟨s.cfg.devAddr, 0x80#8, first⟩) ∧
      { t with phase := s.phase, window := s.window, cmdReq := s.cmdReq } = s

/-- Phase AddressWindowSet sends one single-command frame for each byte of `AW`, in list order, each completed before the
next starts, and after the last goes on to phase Staged: an `ok` logs its `Cmd` event and starts the next bus write or
leaves the phase, in one step (R112, R151; that a wait is a step is log entry 11). In this phase a bus write is always
outstanding. -/
def Obligations.WindowBytesSentInOrder : Prop :=
  ∀ s : State, s.phase = .addressWindowSet → s.sampled.reset = false →
    (∀ r b bs, s.cmdReq = some r → s.sampled.cmdAnswer = some .ok → s.window = b :: bs →
      step s = .next { s with
        inputs := s.inputs.tail, window := bs, cmdReq := some ⟨s.cfg.devAddr, 0x80#8, b⟩,
        log := s.log ++ [.cmd r.addr r.b0 r.b1 .ok] }) ∧
    (∀ r, s.cmdReq = some r → s.sampled.cmdAnswer = some .ok → s.window = [] →
      step s = .next { s with
        inputs := s.inputs.tail, cmdReq := none, phase := .staged,
        log := s.log ++ [.cmd r.addr r.b0 r.b1 .ok] }) ∧
    (∀ r, s.cmdReq = some r → s.sampled.cmdAnswer = none → step s = .next { s with inputs := s.inputs.tail }) ∧
    (Inv s → s.cmdReq ≠ none)

/-- A bus error in phase AddressWindowSet ends the flush: no further command byte, `phase` Idle, `BUS_ERROR`; the image,
the staging memory and the burst channel are as they were (R113, R162; that the flush stops at the first failed write is
log entry 12). -/
def Obligations.BusErrorEndsFlush : Prop :=
  ∀ (s : State) (r : CmdRequest), s.phase = .addressWindowSet → s.sampled.reset = false → s.cmdReq = some r →
    s.sampled.cmdAnswer = some .error →
    step s = .next { s with
      inputs := s.inputs.tail, cmdReq := none, window := [], phase := .idle,
      log := s.log ++ [.cmd r.addr r.b0 r.b1 .error, .rsp 0x20000000#32] }

/-- Phase Staged: one word for each image byte, zero-extended, the termination marker added to the last word only; every
word fits `WORD_BITS`; the image is unchanged (R114, R115, R116). -/
def Obligations.StagedFrame : Prop :=
  ∀ s : State, s.phase = .staged → s.cmdReq = none → s.sampled.reset = false → s.params.Legal → 1 ≤ s.cfg.imageLen →
    ∃ t, step s = .next t ∧ t.phase = .armed ∧ t.staging.length = s.cfg.imageLen ∧
      (∀ i, i < s.cfg.imageLen - 1 → t.staging[i]? = some (s.image.read i).toNat) ∧
      t.staging[s.cfg.imageLen - 1]? = some ((s.image.read (s.cfg.imageLen - 1)).toNat + 2 ^ s.params.termBit) ∧
      (∀ w ∈ t.staging, w < 2 ^ s.params.wordBits) ∧
      { t with staging := s.staging, phase := s.phase } = { s with inputs := s.inputs.tail }

/-- Phase Armed: the seven configuration fields, the trigger, one `Arm` event, and the wait in phase Completed (R117). -/
def Obligations.ArmConfiguresBurst : Prop :=
  ∀ s : State, s.phase = .armed → s.cmdReq = none → s.sampled.reset = false →
    step s = .next { s with
      inputs := s.inputs.tail, phase := .completed,
      bc := ⟨0, true, s.params.dataRegAddr, false, s.params.wordBits, .txReady, s.cfg.imageLen, true, 0, s.cfg.imageLen,
        false⟩,
      log := s.log ++ [.arm 0 s.params.dataRegAddr s.params.wordBits s.cfg.imageLen] }

/-- The burst channel's steps: Move writes the next staging word to the data register, advances by one word and counts one
down, when the transmit-ready signal is up, and waits when it is not; Finish reports completion when nothing remains
(R122, R123; that a wait is a step is log entry 11). -/
def Obligations.BurstSteps : Prop :=
  ∀ s : State, s.phase = .completed → s.cmdReq = none → s.sampled.reset = false → s.bc.active = true →
    (∀ w, 0 < s.bc.remaining → s.sampled.txReady = true → s.staging[s.bc.src + s.bc.pos]? = some w →
      step s = .next { s with
        inputs := s.inputs.tail, log := s.log ++ [.data w],
        bc := { s.bc with pos := s.bc.pos + 1, remaining := s.bc.remaining - 1 } }) ∧
    (0 < s.bc.remaining → s.sampled.txReady = false → step s = .next { s with inputs := s.inputs.tail }) ∧
    (s.bc.remaining = 0 →
      step s = .next { s with
        inputs := s.inputs.tail, log := s.log ++ [.done], bc := { s.bc with active := false, done := true } })

/-- When the completion report stands the core returns to Idle, answers `OK`, and the staging words hold no value again
(R119). -/
def Obligations.CompletionReturnsToIdle : Prop :=
  ∀ s : State, s.phase = .completed → s.cmdReq = none → s.sampled.reset = false → s.bc.active = false →
    s.bc.done = true →
    step s = .next { s with
      inputs := s.inputs.tail, phase := .idle, staging := [], log := s.log ++ [.rsp 0x00000000#32] }

/-- A device that never raises transmit-ready blocks the flush for ever: no step changes anything, no response is given,
no timeout fires (R118, R124; that a wait is a step, which only uses up its inputs, is log entry 11). -/
def Obligations.StalledDeviceBlocks : Prop :=
  ∀ (n : Nat) (s : State), s.phase = .completed → s.cmdReq = none → s.bc.active = true → 0 < s.bc.remaining →
    (∀ inp ∈ s.inputs, inp.reset = false ∧ inp.txReady = false) →
    ∀ t, Steps n s t ↔ t = { s with inputs := s.inputs.drop n }

/-- Whatever the platform does, a FLUSH that has been answered has logged exactly the events of R125: the address window,
the trigger, the frame with its marker on the last word, the report and `OK`, or the bus writes up to the first that
failed and `BUS_ERROR`; and the image, the latches and the parameters are as they were (R27, R125; that the flush stops at
the first failed write is log entry 12). -/
def Obligations.FlushLogsItsFrame : Prop :=
  ∀ (n : Nat) (s t : State), Inv s → s.Ready → s.created = true → NoReset s → s.hostWords = [encode .flush] →
    Steps n s t → 0 < n → t.Ready →
    (t.log = s.log ++ okFlushLog s ∨
      ∃ sent b unsent, addressWindow s.params s.cfg = sent ++ b :: unsent ∧
        t.log = s.log ++ failedFlushLog s sent b) ∧
    t.image = s.image ∧ t.cfg = s.cfg ∧ t.params = s.params ∧ t.created = true ∧ t.staging = []

/-- On a platform that answers every bus write `ok` and is always ready, FLUSH answers `OK` after one step for each byte of
`AW`, one for phase Staged, one for the trigger, one for each word, one for Finish and one for the end of the wait (R110,
R125, R151), beside the step that accepts it (log entry 7). -/
def Obligations.FlushCompletes : Prop :=
  ∀ (s : State) (more : List Inputs), Inv s → s.Ready → s.created = true → s.hostWords = [encode .flush] →
    s.inputs = List.replicate ((addressWindow s.params s.cfg).length + s.cfg.imageLen + 5) ⟨false, some .ok, true⟩
      ++ more →
    ∃ t, Steps ((addressWindow s.params s.cfg).length + s.cfg.imageLen + 5) s t ∧ t.Ready ∧
      t.log = s.log ++ okFlushLog s ∧ t.bc.done = true ∧ t.bc.pos = s.cfg.imageLen ∧ t.bc.remaining = 0 ∧
      { t with log := s.log, bc := s.bc } = { s with hostWords := [], inputs := more }

/-! ### Whole-machine rules -/

/-- The invariant holds right after a hardware reset, for every legal value of the OPEN parameters (R180). -/
def Obligations.ResetMeetsInvariant : Prop :=
  (∀ p : Config.Params, p.Legal → Inv (State.resetWith p)) ∧ Inv State.reset

/-- Every step keeps the invariant (R14 to R21, R116, R192). -/
def Obligations.StepKeepsInvariant : Prop := ∀ s t : State, Inv s → step s = .next t → Inv t

/-- The only way a step of a state that meets the invariant stops is a pixel operation whose pixel the host owed to keep
in-range and in-image; no instruction is refused (R190, U1 to U3). -/
def Obligations.OnlyPixelFaults : Prop :=
  ∀ s : State, Inv s →
    (∀ f, step s = .fault f →
      (f = .pixelOutOfRange ∨ f = .pixelNotInImage) ∧
        ∃ w rest i, Takes s w rest ∧ decode w = .ok i ∧ s.created = true ∧ ¬HostDuty s.cfg i) ∧
    ∀ r, step s ≠ .refused r

/-- A host that keeps its duty never meets a fault: on a created block every such instruction runs (R190). -/
def Obligations.HostDutySuffices : Prop :=
  ∀ (s : State) (i : Instr), s.created = true → HostDuty s.cfg i → ∃ t, exec i s = .next t

/-- `phase` moves only along `Idle, AddressWindowSet, Staged, Armed, Completed, Idle`, and from AddressWindowSet back to
Idle only on a bus error; no operation but FLUSH changes it (R11, R18, R111). -/
def Obligations.PhaseMovesInOrder : Prop :=
  (∀ s t : State, Inv s → s.sampled.reset = false → step s = .next t →
    t.phase = s.phase ∨ (s.phase = .idle ∧ t.phase = .addressWindowSet) ∨
      (s.phase = .addressWindowSet ∧ t.phase = .staged) ∨ (s.phase = .staged ∧ t.phase = .armed) ∨
      (s.phase = .armed ∧ t.phase = .completed) ∨ (s.phase = .completed ∧ t.phase = .idle ∧ s.bc.done = true) ∨
      (s.phase = .addressWindowSet ∧ t.phase = .idle ∧ s.sampled.cmdAnswer = some .error)) ∧
  ∀ (i : Instr) (s t : State), exec i s = .next t → i ≠ .flush → t.phase = s.phase

/-- While a flush is in progress no step writes the image, and while the burst channel is active no step writes the
staging memory (R43, R188). -/
def Obligations.FrameStableInFlight : Prop :=
  ∀ s t : State, Inv s → s.sampled.reset = false → step s = .next t →
    (s.phase ≠ .idle → t.image = s.image) ∧ (s.bc.active = true → t.staging = s.staging)

/-- Once created a block stays created with the latches of its INIT until a reset, and nothing ever changes its
parameters (R4, R13, R14). -/
def Obligations.LatchesConstant : Prop :=
  ∀ s t : State, step s = .next t →
    t.params = s.params ∧
    (s.sampled.reset = false → s.created = true → t.created = true ∧ t.cfg = s.cfg)

/-- `image[0]` never changes after construction: no command can write it (R16, R192). -/
def Obligations.PrefixNeverChanges : Prop :=
  ∀ s t : State, Inv s → s.created = true → s.sampled.reset = false → step s = .next t →
    s.image.read 0 = 0x40#8 ∧ t.image.read 0 = 0x40#8

/-- The log only grows, by at most two events a step; a response is the last event of its step, one at most, and leaves
the block ready for the next command (R26, R150, R170; that a step logs at most two events is the model's granularity, log
entry 7). -/
def Obligations.ResponsesEndOperations : Prop :=
  ∀ s t : State, Inv s → s.sampled.reset = false → step s = .next t →
    ∃ es, t.log = s.log ++ es ∧ es.length ≤ 2 ∧
      ∀ pre post w, es = pre ++ .rsp w :: post → post = [] ∧ (∀ w', .rsp w' ∉ pre) ∧ t.Ready

/-- A hardware reset ends whatever is in progress without a response and puts the block in the state R180 gives: nothing
created, no failure latched, `phase` Idle, no transfer, no staging word with a value, an empty log. -/
def Obligations.HardwareReset : Prop :=
  (∀ s : State, s.sampled.reset = true →
    ∃ t, step s = .next t ∧ t.created = false ∧ t.allocFailed = false ∧ t.phase = .idle ∧ t.bc.active = false ∧
      t.bc.done = false ∧ t.log = [] ∧ t.staging = [] ∧ t.Ready) ∧
  (State.reset.created = false ∧ State.reset.allocFailed = false ∧ State.reset.phase = .idle ∧
    State.reset.bc.active = false ∧ State.reset.bc.done = false ∧ State.reset.log = [] ∧ State.reset.staging = [] ∧
    State.reset.Ready)

/-- Every event the block logs has the form of its interface: command frames begin with `0x80`, staging words fit
`WORD_BITS`, and a response that is not `OK` has zero result fields and a status of R160 (R58, R60, R62, R160). -/
def Obligations.LogKeepsItsForm : Prop := ∀ s t : State, Inv s → LogForm s → step s = .next t → LogForm t

/-- In-image bytes that belong to no pixel are zero after INIT and stay zero: no operation writes them (R76). -/
def Obligations.GapBytesStayZero : Prop := ∀ s t : State, Inv s → GapBytesZero s → step s = .next t → GapBytesZero t

/-! ### The host's routines -/

/-- A horizontal line drawn by `drawLine` touches the pixels of `drawHLine`, in the same order; the interior of a filled
rectangle is the sub-rectangle of R142 (R148). -/
def Obligations.RoutinesAgree : Prop :=
  (∀ x0 x1 y : Nat, x0 ≤ x1 → linePixels x0 y x1 y = hlinePixels x0 x1 y) ∧
  ∀ top left w h x y : Nat, 1 ≤ w → 1 ≤ h →
    ((x, y) ∈ interiorPixels top left w h ↔
      left + 1 ≤ x ∧ x + 2 ≤ left + w ∧ top + 1 ≤ y ∧ y + 2 ≤ top + h)

/-- `drawLine` plots `max(dx, dy) + 1` points, the first its start and the last its end, for every slope
(R145; that both tests of a step use the error before either update is log entry 16). -/
def Obligations.LineReachesItsEnd : Prop :=
  ∀ x0 y0 x1 y1 : Int,
    (linePoints x0 y0 x1 y1).length = max (x1 - x0).natAbs (y1 - y0).natAbs + 1 ∧
    (linePoints x0 y0 x1 y1).head? = some (x0, y0) ∧ (linePoints x0 y0 x1 y1).getLast? = some (x1, y1)

/-- A string started inside the display draws only cells that lie inside it, at most one for each of its characters, and
never drops its first (R147; where the tests stand is log entry 16). -/
def Obligations.StringStaysOnDisplay : Prop :=
  ∀ (width height : Nat) (text : List Nat) (x y : Nat), 8 ≤ width → x + 8 ≤ width → y + 8 ≤ height →
    (∀ k ∈ stringCells width height text x y, k.x + 8 ≤ width ∧ k.y + 8 ≤ height) ∧
    (stringCells width height text x y).length ≤ text.length ∧
    (text ≠ [] → stringCells width height text x y ≠ [])

/-- A drawing routine has no error path: a host that plots pixels that are in-range and in-image is answered `OK` to each
SETPIX, and every pixel plotted then has the value (R83, R149). -/
def Obligations.PlotRunsToItsEnd : Prop :=
  ∀ (s : State) (v : Bool) (l : List (Nat × Nat)), Inv s → s.Ready → s.created = true → NoReset s →
    (∀ p ∈ l, s.cfg.InRange p.1 p.2 ∧ s.cfg.InImage (byteIndex p.1 p.2)) →
    ∃ t, runHost 1 (plot v l) s = .finished t ∧ t.Ready ∧ t.cfg = s.cfg ∧ t.hostWords = s.hostWords ∧
      ∀ p ∈ l, readPixel t.image p.1 p.2 = v

/-- The host's side of R149, for commands of any operands. A ready block runs a command by the operation's own rule on the
operands as integers, whether or not they fit the fields of a word: an oversized pixel is R75's fault, an oversized geometry
`BAD_GEOMETRY`. A routine fails only at a status that is not `OK`. A command held over a hardware reset is answered after
it, and a reset cuts off a command in progress. (R149, R75, R81, R181; what a host does with a command that has no encoding,
and that a routine ends where a reset cuts off its command, is log entry 21.) -/
def Obligations.HostIssuesEveryCommand : Prop :=
  (∀ (i : Instr) (s : State), s.Accepts → issue i s = exec i s.afterSample) ∧
  (∀ (fuel x y : Nat) (v : Bool) (is : List Instr) (s : State), Inv s → s.created = true → s.Accepts →
    4096 ≤ x ∨ 4096 ≤ y → runHost (fuel + 1) (.setpix x y v :: is) s = .faulted .pixelOutOfRange) ∧
  (∀ (fuel width height : Nat) (addr : DevAddr) (is : List Instr) (s : State), s.allocFailed = false →
    s.created = false → s.Accepts → 4096 ≤ width ∨ 512 ≤ height →
    ∃ t, runHost (fuel + 1) (.init width height addr :: is) s = .failed 0x50000000#32 t ∧
      { t with log := s.log } = { s with inputs := s.inputs.tail }) ∧
  (∀ (fuel : Nat) (is : List Instr) (s t : State) (w : CmdWord), runHost fuel is s = .failed w t →
    statusField w ≠ 0#4) ∧
  (∀ (fuel : Nat) (i : Instr) (is : List Instr) (s : State) (a b : Inputs) (more : List Inputs),
    s.inputs = a :: b :: more → a.reset = true → b.reset = false → (∀ w h d, i ≠ .init w h d) →
    ∃ t, runHost (fuel + 2) (i :: is) s = .failed 0x30000000#32 t) ∧
  ∀ (fuel : Nat) (ok : State → HostRun) (s : State), s.sampled.reset = true →
    ∃ t, awaitResponse ok (fuel + 1) s = .cutOff t ∧ t.created = false ∧ t.Ready
end

