-- ==== Sys2Proof/Laws/Decode.lean ====
section
/-! SUPPORT. A slice of a word as a number, and the fields of a word of each format. -/

namespace Sys2Proof

/-- A slice of a word is the word divided and reduced. -/
theorem toNat_slice (w : CmdWord) (lo len : Nat) : (slice w lo len).toNat = w.toNat / 2 ^ lo % 2 ^ len := by
  simp [slice, Nat.shiftRight_eq_div_pow]

/-- A slice of a word of which `len` bits, from bit `lo`, are given as a number. -/
@[simp] theorem slice_beq (w : CmdWord) (lo len : Nat) (b : BitVec len) :
    (slice w lo len == b) = decide (w.toNat / 2 ^ lo % 2 ^ len = b.toNat) := by
  rw [beq_eq_decide]; apply Bool.decide_congr
  rw [← BitVec.toNat_inj, toNat_slice]

/-- A slice is a given vector when it is that number. -/
theorem slice_eq_iff (w : CmdWord) (lo len : Nat) (b : BitVec len) :
    slice w lo len = b ↔ w.toNat / 2 ^ lo % 2 ^ len = b.toNat := by
  rw [← BitVec.toNat_inj, toNat_slice]

/-- The fields of a word of format P. -/
theorem fields_formatP {opc : Nat} (h : opc < 16) (v : Bool) (y x : Nat) :
    (opcField (formatP opc v y x)).toNat = opc ∧ (lowField (formatP opc v y x)).toNat = x % 4096 ∧
      (yField (formatP opc v y x)).toNat = y % 4096 ∧ vField (formatP opc v y x) = v ∧
      reservedZeroP (formatP opc v y x) = true ∧ reservedZeroPNoV (formatP opc v y x) = !v := by
  simp only [opcField, lowField, yField, vField, reservedZeroP, reservedZeroPNoV, toNat_slice, beq_eq_decide,
    slice_eq_iff, formatP, BitVec.toNat_ofNat, place]
  cases v <;> simp <;> omega

/-- The fields of a word of format G. -/
theorem fields_formatG {opc : Nat} (h : opc < 16) (addr : DevAddr) (height width : Nat) :
    (opcField (formatG opc addr height width)).toNat = opc ∧
      (lowField (formatG opc addr height width)).toNat = width % 4096 ∧
      (heightField (formatG opc addr height width)).toNat = height % 512 ∧
      addrField (formatG opc addr height width) = addr := by
  have ha := addr.isLt
  simp only [opcField, lowField, heightField, addrField, toNat_slice, slice_eq_iff, formatG, BitVec.toNat_ofNat, place]
  simp
  omega

/-- The fields of a word of format V. -/
theorem fields_formatV {opc : Nat} (h : opc < 16) (v : Bool) :
    (opcField (formatV opc v)).toNat = opc ∧ vField (formatV opc v) = v ∧ reservedZeroV (formatV opc v) = true := by
  simp only [opcField, vField, reservedZeroV, toNat_slice, beq_eq_decide, slice_eq_iff, formatV, BitVec.toNat_ofNat,
    place]
  cases v <;> simp <;> omega

/-- The fields of a word of format B. -/
theorem fields_formatB {opc : Nat} (h : opc < 16) (cmd : Byte) :
    (opcField (formatB opc cmd)).toNat = opc ∧ cmdField (formatB opc cmd) = cmd ∧
      reservedZeroB (formatB opc cmd) = true := by
  have hc := cmd.isLt
  simp only [opcField, cmdField, reservedZeroB, toNat_slice, beq_eq_decide, slice_eq_iff, formatB, BitVec.toNat_ofNat,
    place]
  simp
  omega

/-- The fields of a word of format N. -/
theorem fields_formatN {opc : Nat} (h : opc < 16) :
    (opcField (formatN opc)).toNat = opc ∧ reservedZeroN (formatN opc) = true := by
  simp only [opcField, reservedZeroN, toNat_slice, beq_eq_decide, slice_eq_iff, formatN, BitVec.toNat_ofNat, place]
  simp
  omega

/-- The instruction a word with zero reserved bits is. -/
@[simp] theorem ifReservedZero_eq_ok {zero : Bool} {i j : Instr} :
    ifReservedZero zero i = .ok j ↔ zero = true ∧ i = j := by
  cases zero <;> simp [ifReservedZero]

/-- The reason a word with a nonzero reserved bit is illegal. -/
@[simp] theorem ifReservedZero_eq_error {zero : Bool} {i : Instr} {e : Illegal} :
    ifReservedZero zero i = .error e ↔ zero = false ∧ .reservedBits = e := by
  cases zero <;> simp [ifReservedZero]

/-- The decoder, one opcode after another (R56). -/
theorem decode_eq (w : CmdWord) :
    decode w =
      if (opcField w).toNat = 1 then .ok (.init (lowField w).toNat (heightField w).toNat (addrField w))
      else if (opcField w).toNat = 2 then
        ifReservedZero (reservedZeroPNoV w) (.locate (lowField w).toNat (yField w).toNat)
      else if (opcField w).toNat = 3 then
        ifReservedZero (reservedZeroP w) (.setpix (lowField w).toNat (yField w).toNat (vField w))
      else if (opcField w).toNat = 4 then
        ifReservedZero (reservedZeroPNoV w) (.getpix (lowField w).toNat (yField w).toNat)
      else if (opcField w).toNat = 5 then ifReservedZero (reservedZeroV w) (.fill (vField w))
      else if (opcField w).toNat = 6 then ifReservedZero (reservedZeroB w) (.sendcmd (cmdField w))
      else if (opcField w).toNat = 7 then ifReservedZero (reservedZeroN w) .flush
      else .error .reservedOpcode := by
  unfold decode
  split <;> simp_all

section
variable (width height x y : Nat) (addr : DevAddr) (v : Bool) (cmd : Byte)

@[simp] theorem wellFormed_init : (Instr.init width height addr).WellFormed ↔ width < 4096 ∧ height < 512 := by
  simp [Instr.WellFormed, Instr.wellFormed, FitsGeometry]

@[simp] theorem wellFormed_locate : (Instr.locate x y).WellFormed ↔ x < 4096 ∧ y < 4096 := by
  simp [Instr.WellFormed, Instr.wellFormed, FitsCoord]

@[simp] theorem wellFormed_setpix : (Instr.setpix x y v).WellFormed ↔ x < 4096 ∧ y < 4096 := by
  simp [Instr.WellFormed, Instr.wellFormed, FitsCoord]

@[simp] theorem wellFormed_getpix : (Instr.getpix x y).WellFormed ↔ x < 4096 ∧ y < 4096 := by
  simp [Instr.WellFormed, Instr.wellFormed, FitsCoord]

@[simp] theorem wellFormed_fill : (Instr.fill v).WellFormed ↔ True := by simp [Instr.WellFormed, Instr.wellFormed]

@[simp] theorem wellFormed_sendcmd : (Instr.sendcmd cmd).WellFormed ↔ True := by simp [Instr.WellFormed, Instr.wellFormed]

@[simp] theorem wellFormed_flush : Instr.flush.WellFormed ↔ True := by simp [Instr.WellFormed, Instr.wellFormed]

end

end Sys2Proof
end

