-- ==== Sys2Proof/Laws/Memory.lean ====
section
/-! SUPPORT. The laws of the image memory: a read after a write, the canonical form under every memory operation, and
that canonical memories which read alike are equal. -/

namespace Sys2Proof.Machine

@[simp] theorem Memory.read_nil (i : Nat) : Memory.read [] i = Memory.unlisted := rfl

theorem Memory.wf_nil : Memory.wf [] := ⟨List.Pairwise.nil, by simp⟩

theorem Memory.wf_tail {c : Host.Cell} {m : Memory} (h : Memory.wf (c :: m)) : m.wf :=
  ⟨(List.pairwise_cons.1 h.1).2, fun d hd => h.2 d (List.mem_cons_of_mem _ hd)⟩

theorem Memory.wf_cons {c : Host.Cell} {m : Memory} :
    Memory.wf (c :: m) ↔ c.2 ≠ Memory.unlisted ∧ (∀ d ∈ m, c.1 < d.1) ∧ m.wf := by
  constructor
  · intro h
    exact ⟨h.2 c (by simp), (List.pairwise_cons.1 h.1).1, Memory.wf_tail h⟩
  · rintro ⟨h1, h2, h3⟩
    refine ⟨List.pairwise_cons.2 ⟨h2, h3.1⟩, ?_⟩
    intro d hd
    rcases List.mem_cons.1 hd with rfl | hd
    · exact h1
    · exact h3.2 d hd

/-- An index below every cell reads as an unlisted one. -/
theorem Memory.read_below {m : Memory} {i : Nat} (h : ∀ c ∈ m, i < c.1) : m.read i = Memory.unlisted := by
  cases m with
  | nil => rfl
  | cons c m =>
    have := h c (by simp)
    simp [Memory.read, this]

/-- A cell of a canonical memory is what its index reads as. -/
theorem Memory.read_of_mem {m : Memory} (h : m.wf) {c : Host.Cell} (hc : c ∈ m) : m.read c.1 = c.2 := by
  induction m with
  | nil => simp at hc
  | cons d m ih =>
    obtain ⟨_, hlt, hw⟩ := Memory.wf_cons.1 h
    rcases List.mem_cons.1 hc with rfl | hc
    · simp [Memory.read]
    · have := hlt c hc
      simp [Memory.read, Nat.lt_asymm this, Nat.ne_of_gt this, ih hw hc]

/-- An index no cell lists reads as an unlisted one. -/
theorem Memory.read_of_not_mem {m : Memory} {i : Nat} (h : ∀ c ∈ m, c.1 ≠ i) : m.read i = Memory.unlisted := by
  induction m with
  | nil => rfl
  | cons d m ih =>
    obtain ⟨a, b⟩ := d
    have h1 := h (a, b) (by simp)
    have h2 := ih fun c hc => h c (List.mem_cons_of_mem _ hc)
    simp only [Memory.read]
    split
    · rfl
    · rw [if_neg (fun e => h1 e.symm), h2]

/-- Where a write puts its index: its cells are those of the memory, or the one written. -/
theorem Memory.mem_write {m : Memory} {i : Nat} {v : Byte} {c : Host.Cell} (h : c ∈ m.write i v) :
    c ∈ m ∨ c = (i, v) ∧ v ≠ Memory.unlisted := by
  induction m with
  | nil =>
    simp only [Memory.write] at h
    split at h
    · simp at h
    · exact Or.inr ⟨by simpa using h, by assumption⟩
  | cons d m ih =>
    obtain ⟨a, b⟩ := d
    simp only [Memory.write] at h
    split at h
    · split at h
      · exact Or.inl h
      · rcases List.mem_cons.1 h with rfl | h
        · exact Or.inr ⟨rfl, by assumption⟩
        · exact Or.inl h
    · split at h
      · split at h
        · exact Or.inl (List.mem_cons_of_mem _ h)
        · rcases List.mem_cons.1 h with rfl | h
          · exact Or.inr ⟨rfl, by assumption⟩
          · exact Or.inl (List.mem_cons_of_mem _ h)
      · rcases List.mem_cons.1 h with rfl | h
        · exact Or.inl (by simp)
        · rcases ih h with h | h
          · exact Or.inl (List.mem_cons_of_mem _ h)
          · exact Or.inr h

/-- A write keeps the canonical form. -/
theorem Memory.wf_write {m : Memory} (h : m.wf) (i : Nat) (v : Byte) : (m.write i v).wf := by
  induction m with
  | nil =>
    simp only [Memory.write]
    split
    · exact h
    · exact Memory.wf_cons.2 ⟨by assumption, by simp, Memory.wf_nil⟩
  | cons d m ih =>
    obtain ⟨a, b⟩ := d
    obtain ⟨hb, hlt, hw⟩ := Memory.wf_cons.1 h
    simp only [Memory.write]
    split
    next hia =>
      split
      · exact h
      · refine Memory.wf_cons.2 ⟨by assumption, ?_, h⟩
        intro c hc
        rcases List.mem_cons.1 hc with rfl | hc
        · exact hia
        · exact Nat.lt_trans hia (hlt c hc)
    next hia =>
      split
      next e =>
        split
        · exact hw
        · exact Memory.wf_cons.2 ⟨by assumption, by subst e; exact hlt, hw⟩
      next hne =>
        refine Memory.wf_cons.2 ⟨hb, ?_, ih hw⟩
        intro c hc
        rcases Memory.mem_write hc with hc | ⟨rfl, _⟩
        · exact hlt c hc
        · show a < i
          omega

/-- A read after a write: the value written at its index, the old byte at every other. -/
theorem Memory.read_write {m : Memory} (h : m.wf) (i j : Nat) (v : Byte) :
    (m.write i v).read j = if j = i then v else m.read j := by
  induction m with
  | nil =>
    simp only [Memory.write, Memory.read]
    by_cases hv : v = Memory.unlisted
    · simp [hv]
    · simp only [hv, if_false, Memory.read]
      split
      · rw [if_neg (by omega)]
      · rfl
  | cons d m ih =>
    obtain ⟨a, b⟩ := d
    obtain ⟨_, hlt, hw⟩ := Memory.wf_cons.1 h
    have hbelow : ∀ k, k ≤ a → Memory.read m k = Memory.unlisted := fun k hk =>
      Memory.read_below fun c hc => Nat.lt_of_le_of_lt hk (hlt c hc)
    simp only [Memory.write]
    split
    next hia =>
      split
      next hv =>
        by_cases hj : j = i
        · simp [Memory.read, hj, hia, hv]
        · simp [hj]
      next hv =>
        by_cases hj : j = i
        · simp [Memory.read, hj]
        · by_cases hlti : j < i
          · simp [Memory.read, hj, hlti, Nat.lt_trans hlti hia]
          · simp [Memory.read, hj, hlti]
    next hia =>
      split
      next e =>
        subst e
        split
        next hv =>
          by_cases hj : j = i
          · subst hj
            simp [hv, hbelow j (Nat.le_refl _)]
          · by_cases hlti : j < i
            · simp [Memory.read, hj, hlti, hbelow j (Nat.le_of_lt hlti)]
            · simp [Memory.read, hj, hlti]
        next hv =>
          by_cases hj : j = i
          · simp [Memory.read, hj]
          · simp [Memory.read, hj]
      next hne =>
        simp only [Memory.read, ih hw]
        by_cases hj : j = i
        · subst hj
          simp [hia, hne]
        · simp [hj]

/-- Canonical memories that read alike are equal. -/
theorem Memory.eq_of_read_eq {m n : Memory} (hm : m.wf) (hn : n.wf) (h : ∀ i, m.read i = n.read i) : m = n := by
  have key : ∀ {p q : Memory}, p.wf → q.wf → (∀ i, p.read i = q.read i) → ∀ c ∈ p, c ∈ q := by
    intro p q hp hq hr c hc
    have hcv : q.read c.1 = c.2 := by rw [← hr, Memory.read_of_mem hp hc]
    by_contra hcq
    have hne : ∀ d ∈ q, d.1 ≠ c.1 := by
      intro d hd e
      have hd2 : d.2 = c.2 := by rw [← Memory.read_of_mem hq hd, e, hcv]
      exact hcq (by rwa [show c = d from Prod.ext e.symm hd2.symm])
    exact hp.2 c hc (by rw [← hcv, Memory.read_of_not_mem hne])
  have hperm : m.Perm n := by
    have nd : ∀ {p : Memory}, p.wf → p.Nodup := fun hp =>
      hp.1.imp fun hlt e => by rw [e] at hlt; exact Nat.lt_irrefl _ hlt
    exact (List.perm_ext_iff_of_nodup (nd hm) (nd hn)).2 fun c =>
      ⟨key hm hn h c, key hn hm (fun i => (h i).symm) c⟩
  refine List.Perm.eq_of_pairwise (le := fun c d => c.1 < d.1) ?_ hm.1 hn.1 hperm
  intro c d _ _ h1 h2
  exact absurd h1 (Nat.lt_asymm h2)

/-- Writing the byte an index already holds changes nothing. -/
theorem Memory.write_read_self {m : Memory} (h : m.wf) (i : Nat) : m.write i (m.read i) = m :=
  Memory.eq_of_read_eq (Memory.wf_write h _ _) h fun j => by
    rw [Memory.read_write h]
    split
    · subst_vars; rfl
    · rfl

/-- Clearing a range keeps the canonical form. -/
theorem Memory.wf_clearRange {m : Memory} (h : m.wf) (lo hi : Nat) : (m.clearRange lo hi).wf :=
  ⟨h.1.filter _, fun c hc => h.2 c (List.mem_filter.1 hc).1⟩

/-- A read after clearing a range: zero in the range, the old byte outside it. -/
theorem Memory.read_clearRange {m : Memory} (h : m.wf) (lo hi i : Nat) :
    (m.clearRange lo hi).read i = if lo ≤ i ∧ i < hi then Memory.unlisted else m.read i := by
  by_cases hin : lo ≤ i ∧ i < hi
  · rw [if_pos hin]
    refine Memory.read_of_not_mem fun c hc e => ?_
    have := (List.mem_filter.1 hc).2
    simp only [Bool.or_eq_true, decide_eq_true_eq] at this
    omega
  · rw [if_neg hin]
    by_cases hex : ∃ c ∈ m, c.1 = i
    · obtain ⟨c, hc, rfl⟩ := hex
      rw [Memory.read_of_mem h hc]
      refine Memory.read_of_mem (Memory.wf_clearRange h lo hi) (List.mem_filter.2 ⟨hc, ?_⟩)
      simp only [Bool.or_eq_true, decide_eq_true_eq]
      omega
    · have hne : ∀ c ∈ m, c.1 ≠ i := fun c hc e => hex ⟨c, hc, e⟩
      exact (Memory.read_of_not_mem fun c hc => hne c (List.mem_filter.1 hc).1).trans
        (Memory.read_of_not_mem hne).symm

/-- The image INIT leaves is canonical. -/
theorem wf_clearedImage {m : Memory} (h : m.wf) (len : Nat) : (clearedImage m len).wf :=
  Memory.wf_write (Memory.wf_clearRange h _ _) _ _

/-- The bytes of the image INIT leaves. -/
theorem read_clearedImage {m : Memory} (h : m.wf) (len i : Nat) :
    (clearedImage m len).read i =
      if i = 0 then Config.ctrlData else if i < len then Memory.unlisted else m.read i := by
  rw [clearedImage, Memory.read_write (Memory.wf_clearRange h _ _), Memory.read_clearRange h]
  by_cases h0 : i = 0
  · simp [h0]
  · simp [h0, Nat.one_le_iff_ne_zero]

/-- A pixel write keeps the canonical form. -/
theorem wf_writePixel {m : Memory} (h : m.wf) (x y : Nat) (v : Bool) : (writePixel m x y v).wf :=
  Memory.wf_write h _ _

/-- A mask has the one bit of its row. -/
theorem pixelMask_getLsbD (y b : Nat) (hb : b < 8) : (pixelMask y).getLsbD b = decide (b = y % 8) := by
  have hy : y % 8 < 8 := Nat.mod_lt _ (by decide)
  unfold pixelMask bitPosition
  generalize y % 8 = k at hy
  revert b k
  decide

/-- The bit a pixel write changes, and no other (R83, R87). -/
theorem withBits_getLsbD (old : Byte) (y : Nat) (v : Bool) (b : Nat) (hb : b < 8) :
    (withBits old (pixelMask y) v).getLsbD b = if b = y % 8 then v else old.getLsbD b := by
  cases v
  · simp only [withBits, Bool.false_eq_true, if_false, BitVec.getLsbD_and, BitVec.getLsbD_not,
      pixelMask_getLsbD y b hb, hb, decide_true, Bool.true_and]
    by_cases h : b = y % 8 <;> simp [h]
  · simp only [withBits, if_true, BitVec.getLsbD_or, pixelMask_getLsbD y b hb]
    by_cases h : b = y % 8 <;> simp [h]

/-- The pixel query is the bit of its row (R85). -/
theorem testBits_pixelMask (b : Byte) (y : Nat) : testBits b (pixelMask y) = b.getLsbD (y % 8) := by
  have hy : y % 8 < 8 := Nat.mod_lt _ (by decide)
  unfold testBits pixelMask bitPosition
  generalize y % 8 = k at hy
  revert b k
  decide

/-- What a pixel write does to every bit of every byte: bit `y mod 8` of the byte `locate` names, and no other. -/
theorem read_writePixel {m : Memory} (h : m.wf) (x y : Nat) (v : Bool) (i b : Nat) (hb : b < 8) :
    ((writePixel m x y v).read i).getLsbD b =
      if i = byteIndex x y ∧ b = y % 8 then v else (m.read i).getLsbD b := by
  rw [writePixel, Memory.read_write h]
  by_cases hi : i = byteIndex x y
  · subst hi
    simp [withBits_getLsbD _ _ _ _ hb]
  · simp [hi]

/-- A pixel write leaves every other byte as it was. -/
theorem read_writePixel_other {m : Memory} (h : m.wf) (x y : Nat) (v : Bool) {i : Nat} (hi : i ≠ byteIndex x y) :
    (writePixel m x y v).read i = m.read i := by
  rw [writePixel, Memory.read_write h, if_neg hi]

/-- FILL answers where every pixel of the list is in-image, and only there. -/
theorem fillPixels_isSome {len : Nat} {v : Bool} {l : List (Nat × Nat)} {m : Memory} :
    (fillPixels len v l m).isSome = true ↔ ∀ p ∈ l, byteIndex p.1 p.2 < len := by
  induction l generalizing m with
  | nil => simp [fillPixels]
  | cons p l ih =>
    obtain ⟨x, y⟩ := p
    simp only [fillPixels]
    split
    next h => simp [ih, h]
    next h => simp [h]

/-- What FILL does to every bit of every byte: the bits of the pixels of its list, and no other. -/
theorem read_fillPixels {len : Nat} {v : Bool} {l : List (Nat × Nat)} {m m' : Memory} (h : m.wf)
    (hf : fillPixels len v l m = some m') :
    m'.wf ∧ ∀ i b, b < 8 → (m'.read i).getLsbD b =
      if ∃ p ∈ l, i = byteIndex p.1 p.2 ∧ b = p.2 % 8 then v else (m.read i).getLsbD b := by
  induction l generalizing m with
  | nil =>
    simp only [fillPixels, Option.some.injEq] at hf
    subst hf
    exact ⟨h, by simp⟩
  | cons p l ih =>
    obtain ⟨x, y⟩ := p
    simp only [fillPixels] at hf
    split at hf
    next hlt =>
      obtain ⟨hw, hr⟩ := ih (wf_writePixel h x y v) hf
      refine ⟨hw, fun i b hb => ?_⟩
      rw [hr i b hb, read_writePixel h x y v i b hb]
      by_cases h1 : ∃ p ∈ l, i = byteIndex p.1 p.2 ∧ b = p.2 % 8
      · rw [if_pos h1, if_pos]
        obtain ⟨p, hp, e⟩ := h1
        exact ⟨p, List.mem_cons_of_mem _ hp, e⟩
      · rw [if_neg h1]
        by_cases h2 : i = byteIndex x y ∧ b = y % 8
        · rw [if_pos h2, if_pos ⟨(x, y), by simp, h2⟩]
        · rw [if_neg h2, if_neg]
          rintro ⟨p, hp, e⟩
          rcases List.mem_cons.1 hp with rfl | hp
          · exact h2 e
          · exact h1 ⟨p, hp, e⟩
    next => simp at hf

/-- The pixels of a geometry are those of `pixelDomain`. -/
@[simp] theorem mem_pixelDomain {w h x y : Nat} : (x, y) ∈ pixelDomain w h ↔ x < w ∧ y < h := by
  simp [pixelDomain]

end Sys2Proof.Machine
end

