-- ==== Sys2Proof/Laws/State.lean ====
section
/-! SUPPORT. One lemma per field per update of State, each true by `rfl`, so that no later proof unfolds a record
update. -/

namespace Sys2Proof.Machine

section
variable (s : State) (e : Event)

@[simp] theorem State.logEvent_params : (s.logEvent e).params = s.params := rfl
@[simp] theorem State.logEvent_created : (s.logEvent e).created = s.created := rfl
@[simp] theorem State.logEvent_allocFailed : (s.logEvent e).allocFailed = s.allocFailed := rfl
@[simp] theorem State.logEvent_cfg : (s.logEvent e).cfg = s.cfg := rfl
@[simp] theorem State.logEvent_image : (s.logEvent e).image = s.image := rfl
@[simp] theorem State.logEvent_staging : (s.logEvent e).staging = s.staging := rfl
@[simp] theorem State.logEvent_phase : (s.logEvent e).phase = s.phase := rfl
@[simp] theorem State.logEvent_bc : (s.logEvent e).bc = s.bc := rfl
@[simp] theorem State.logEvent_cmdReq : (s.logEvent e).cmdReq = s.cmdReq := rfl
@[simp] theorem State.logEvent_window : (s.logEvent e).window = s.window := rfl
@[simp] theorem State.logEvent_log : (s.logEvent e).log = s.log ++ [e] := rfl
@[simp] theorem State.logEvent_hostWords : (s.logEvent e).hostWords = s.hostWords := rfl
@[simp] theorem State.logEvent_inputs : (s.logEvent e).inputs = s.inputs := rfl

end

section
variable (s : State) (b : Bool)

@[simp] theorem State.setCreated_params : (s.setCreated b).params = s.params := rfl
@[simp] theorem State.setCreated_created : (s.setCreated b).created = b := rfl
@[simp] theorem State.setCreated_allocFailed : (s.setCreated b).allocFailed = s.allocFailed := rfl
@[simp] theorem State.setCreated_cfg : (s.setCreated b).cfg = s.cfg := rfl
@[simp] theorem State.setCreated_image : (s.setCreated b).image = s.image := rfl
@[simp] theorem State.setCreated_staging : (s.setCreated b).staging = s.staging := rfl
@[simp] theorem State.setCreated_phase : (s.setCreated b).phase = s.phase := rfl
@[simp] theorem State.setCreated_bc : (s.setCreated b).bc = s.bc := rfl
@[simp] theorem State.setCreated_cmdReq : (s.setCreated b).cmdReq = s.cmdReq := rfl
@[simp] theorem State.setCreated_window : (s.setCreated b).window = s.window := rfl
@[simp] theorem State.setCreated_log : (s.setCreated b).log = s.log := rfl
@[simp] theorem State.setCreated_hostWords : (s.setCreated b).hostWords = s.hostWords := rfl
@[simp] theorem State.setCreated_inputs : (s.setCreated b).inputs = s.inputs := rfl

end

section
variable (s : State) (b : Bool)

@[simp] theorem State.setAllocFailed_params : (s.setAllocFailed b).params = s.params := rfl
@[simp] theorem State.setAllocFailed_created : (s.setAllocFailed b).created = s.created := rfl
@[simp] theorem State.setAllocFailed_allocFailed : (s.setAllocFailed b).allocFailed = b := rfl
@[simp] theorem State.setAllocFailed_cfg : (s.setAllocFailed b).cfg = s.cfg := rfl
@[simp] theorem State.setAllocFailed_image : (s.setAllocFailed b).image = s.image := rfl
@[simp] theorem State.setAllocFailed_staging : (s.setAllocFailed b).staging = s.staging := rfl
@[simp] theorem State.setAllocFailed_phase : (s.setAllocFailed b).phase = s.phase := rfl
@[simp] theorem State.setAllocFailed_bc : (s.setAllocFailed b).bc = s.bc := rfl
@[simp] theorem State.setAllocFailed_cmdReq : (s.setAllocFailed b).cmdReq = s.cmdReq := rfl
@[simp] theorem State.setAllocFailed_window : (s.setAllocFailed b).window = s.window := rfl
@[simp] theorem State.setAllocFailed_log : (s.setAllocFailed b).log = s.log := rfl
@[simp] theorem State.setAllocFailed_hostWords : (s.setAllocFailed b).hostWords = s.hostWords := rfl
@[simp] theorem State.setAllocFailed_inputs : (s.setAllocFailed b).inputs = s.inputs := rfl

end

section
variable (s : State) (c : Cfg)

@[simp] theorem State.setCfg_params : (s.setCfg c).params = s.params := rfl
@[simp] theorem State.setCfg_created : (s.setCfg c).created = s.created := rfl
@[simp] theorem State.setCfg_allocFailed : (s.setCfg c).allocFailed = s.allocFailed := rfl
@[simp] theorem State.setCfg_cfg : (s.setCfg c).cfg = c := rfl
@[simp] theorem State.setCfg_image : (s.setCfg c).image = s.image := rfl
@[simp] theorem State.setCfg_staging : (s.setCfg c).staging = s.staging := rfl
@[simp] theorem State.setCfg_phase : (s.setCfg c).phase = s.phase := rfl
@[simp] theorem State.setCfg_bc : (s.setCfg c).bc = s.bc := rfl
@[simp] theorem State.setCfg_cmdReq : (s.setCfg c).cmdReq = s.cmdReq := rfl
@[simp] theorem State.setCfg_window : (s.setCfg c).window = s.window := rfl
@[simp] theorem State.setCfg_log : (s.setCfg c).log = s.log := rfl
@[simp] theorem State.setCfg_hostWords : (s.setCfg c).hostWords = s.hostWords := rfl
@[simp] theorem State.setCfg_inputs : (s.setCfg c).inputs = s.inputs := rfl

end

section
variable (s : State) (m : Memory)

@[simp] theorem State.setImage_params : (s.setImage m).params = s.params := rfl
@[simp] theorem State.setImage_created : (s.setImage m).created = s.created := rfl
@[simp] theorem State.setImage_allocFailed : (s.setImage m).allocFailed = s.allocFailed := rfl
@[simp] theorem State.setImage_cfg : (s.setImage m).cfg = s.cfg := rfl
@[simp] theorem State.setImage_image : (s.setImage m).image = m := rfl
@[simp] theorem State.setImage_staging : (s.setImage m).staging = s.staging := rfl
@[simp] theorem State.setImage_phase : (s.setImage m).phase = s.phase := rfl
@[simp] theorem State.setImage_bc : (s.setImage m).bc = s.bc := rfl
@[simp] theorem State.setImage_cmdReq : (s.setImage m).cmdReq = s.cmdReq := rfl
@[simp] theorem State.setImage_window : (s.setImage m).window = s.window := rfl
@[simp] theorem State.setImage_log : (s.setImage m).log = s.log := rfl
@[simp] theorem State.setImage_hostWords : (s.setImage m).hostWords = s.hostWords := rfl
@[simp] theorem State.setImage_inputs : (s.setImage m).inputs = s.inputs := rfl

end

section
variable (s : State) (ws : List WideWord)

@[simp] theorem State.setStaging_params : (s.setStaging ws).params = s.params := rfl
@[simp] theorem State.setStaging_created : (s.setStaging ws).created = s.created := rfl
@[simp] theorem State.setStaging_allocFailed : (s.setStaging ws).allocFailed = s.allocFailed := rfl
@[simp] theorem State.setStaging_cfg : (s.setStaging ws).cfg = s.cfg := rfl
@[simp] theorem State.setStaging_image : (s.setStaging ws).image = s.image := rfl
@[simp] theorem State.setStaging_staging : (s.setStaging ws).staging = ws := rfl
@[simp] theorem State.setStaging_phase : (s.setStaging ws).phase = s.phase := rfl
@[simp] theorem State.setStaging_bc : (s.setStaging ws).bc = s.bc := rfl
@[simp] theorem State.setStaging_cmdReq : (s.setStaging ws).cmdReq = s.cmdReq := rfl
@[simp] theorem State.setStaging_window : (s.setStaging ws).window = s.window := rfl
@[simp] theorem State.setStaging_log : (s.setStaging ws).log = s.log := rfl
@[simp] theorem State.setStaging_hostWords : (s.setStaging ws).hostWords = s.hostWords := rfl
@[simp] theorem State.setStaging_inputs : (s.setStaging ws).inputs = s.inputs := rfl

end

section
variable (s : State) (p : Phase)

@[simp] theorem State.setPhase_params : (s.setPhase p).params = s.params := rfl
@[simp] theorem State.setPhase_created : (s.setPhase p).created = s.created := rfl
@[simp] theorem State.setPhase_allocFailed : (s.setPhase p).allocFailed = s.allocFailed := rfl
@[simp] theorem State.setPhase_cfg : (s.setPhase p).cfg = s.cfg := rfl
@[simp] theorem State.setPhase_image : (s.setPhase p).image = s.image := rfl
@[simp] theorem State.setPhase_staging : (s.setPhase p).staging = s.staging := rfl
@[simp] theorem State.setPhase_phase : (s.setPhase p).phase = p := rfl
@[simp] theorem State.setPhase_bc : (s.setPhase p).bc = s.bc := rfl
@[simp] theorem State.setPhase_cmdReq : (s.setPhase p).cmdReq = s.cmdReq := rfl
@[simp] theorem State.setPhase_window : (s.setPhase p).window = s.window := rfl
@[simp] theorem State.setPhase_log : (s.setPhase p).log = s.log := rfl
@[simp] theorem State.setPhase_hostWords : (s.setPhase p).hostWords = s.hostWords := rfl
@[simp] theorem State.setPhase_inputs : (s.setPhase p).inputs = s.inputs := rfl

end

section
variable (s : State) (b : Burst)

@[simp] theorem State.setBc_params : (s.setBc b).params = s.params := rfl
@[simp] theorem State.setBc_created : (s.setBc b).created = s.created := rfl
@[simp] theorem State.setBc_allocFailed : (s.setBc b).allocFailed = s.allocFailed := rfl
@[simp] theorem State.setBc_cfg : (s.setBc b).cfg = s.cfg := rfl
@[simp] theorem State.setBc_image : (s.setBc b).image = s.image := rfl
@[simp] theorem State.setBc_staging : (s.setBc b).staging = s.staging := rfl
@[simp] theorem State.setBc_phase : (s.setBc b).phase = s.phase := rfl
@[simp] theorem State.setBc_bc : (s.setBc b).bc = b := rfl
@[simp] theorem State.setBc_cmdReq : (s.setBc b).cmdReq = s.cmdReq := rfl
@[simp] theorem State.setBc_window : (s.setBc b).window = s.window := rfl
@[simp] theorem State.setBc_log : (s.setBc b).log = s.log := rfl
@[simp] theorem State.setBc_hostWords : (s.setBc b).hostWords = s.hostWords := rfl
@[simp] theorem State.setBc_inputs : (s.setBc b).inputs = s.inputs := rfl

end

section
variable (s : State) (r : Option CmdRequest)

@[simp] theorem State.setCmdReq_params : (s.setCmdReq r).params = s.params := rfl
@[simp] theorem State.setCmdReq_created : (s.setCmdReq r).created = s.created := rfl
@[simp] theorem State.setCmdReq_allocFailed : (s.setCmdReq r).allocFailed = s.allocFailed := rfl
@[simp] theorem State.setCmdReq_cfg : (s.setCmdReq r).cfg = s.cfg := rfl
@[simp] theorem State.setCmdReq_image : (s.setCmdReq r).image = s.image := rfl
@[simp] theorem State.setCmdReq_staging : (s.setCmdReq r).staging = s.staging := rfl
@[simp] theorem State.setCmdReq_phase : (s.setCmdReq r).phase = s.phase := rfl
@[simp] theorem State.setCmdReq_bc : (s.setCmdReq r).bc = s.bc := rfl
@[simp] theorem State.setCmdReq_cmdReq : (s.setCmdReq r).cmdReq = r := rfl
@[simp] theorem State.setCmdReq_window : (s.setCmdReq r).window = s.window := rfl
@[simp] theorem State.setCmdReq_log : (s.setCmdReq r).log = s.log := rfl
@[simp] theorem State.setCmdReq_hostWords : (s.setCmdReq r).hostWords = s.hostWords := rfl
@[simp] theorem State.setCmdReq_inputs : (s.setCmdReq r).inputs = s.inputs := rfl

end

section
variable (s : State) (bs : List Byte)

@[simp] theorem State.setWindow_params : (s.setWindow bs).params = s.params := rfl
@[simp] theorem State.setWindow_created : (s.setWindow bs).created = s.created := rfl
@[simp] theorem State.setWindow_allocFailed : (s.setWindow bs).allocFailed = s.allocFailed := rfl
@[simp] theorem State.setWindow_cfg : (s.setWindow bs).cfg = s.cfg := rfl
@[simp] theorem State.setWindow_image : (s.setWindow bs).image = s.image := rfl
@[simp] theorem State.setWindow_staging : (s.setWindow bs).staging = s.staging := rfl
@[simp] theorem State.setWindow_phase : (s.setWindow bs).phase = s.phase := rfl
@[simp] theorem State.setWindow_bc : (s.setWindow bs).bc = s.bc := rfl
@[simp] theorem State.setWindow_cmdReq : (s.setWindow bs).cmdReq = s.cmdReq := rfl
@[simp] theorem State.setWindow_window : (s.setWindow bs).window = bs := rfl
@[simp] theorem State.setWindow_log : (s.setWindow bs).log = s.log := rfl
@[simp] theorem State.setWindow_hostWords : (s.setWindow bs).hostWords = s.hostWords := rfl
@[simp] theorem State.setWindow_inputs : (s.setWindow bs).inputs = s.inputs := rfl

end

section
variable (s : State) (ws : List CmdWord)

@[simp] theorem State.setHostWords_params : (s.setHostWords ws).params = s.params := rfl
@[simp] theorem State.setHostWords_created : (s.setHostWords ws).created = s.created := rfl
@[simp] theorem State.setHostWords_allocFailed : (s.setHostWords ws).allocFailed = s.allocFailed := rfl
@[simp] theorem State.setHostWords_cfg : (s.setHostWords ws).cfg = s.cfg := rfl
@[simp] theorem State.setHostWords_image : (s.setHostWords ws).image = s.image := rfl
@[simp] theorem State.setHostWords_staging : (s.setHostWords ws).staging = s.staging := rfl
@[simp] theorem State.setHostWords_phase : (s.setHostWords ws).phase = s.phase := rfl
@[simp] theorem State.setHostWords_bc : (s.setHostWords ws).bc = s.bc := rfl
@[simp] theorem State.setHostWords_cmdReq : (s.setHostWords ws).cmdReq = s.cmdReq := rfl
@[simp] theorem State.setHostWords_window : (s.setHostWords ws).window = s.window := rfl
@[simp] theorem State.setHostWords_log : (s.setHostWords ws).log = s.log := rfl
@[simp] theorem State.setHostWords_hostWords : (s.setHostWords ws).hostWords = ws := rfl
@[simp] theorem State.setHostWords_inputs : (s.setHostWords ws).inputs = s.inputs := rfl

end

section
variable (s : State) (is : List Inputs)

@[simp] theorem State.setInputs_params : (s.setInputs is).params = s.params := rfl
@[simp] theorem State.setInputs_created : (s.setInputs is).created = s.created := rfl
@[simp] theorem State.setInputs_allocFailed : (s.setInputs is).allocFailed = s.allocFailed := rfl
@[simp] theorem State.setInputs_cfg : (s.setInputs is).cfg = s.cfg := rfl
@[simp] theorem State.setInputs_image : (s.setInputs is).image = s.image := rfl
@[simp] theorem State.setInputs_staging : (s.setInputs is).staging = s.staging := rfl
@[simp] theorem State.setInputs_phase : (s.setInputs is).phase = s.phase := rfl
@[simp] theorem State.setInputs_bc : (s.setInputs is).bc = s.bc := rfl
@[simp] theorem State.setInputs_cmdReq : (s.setInputs is).cmdReq = s.cmdReq := rfl
@[simp] theorem State.setInputs_window : (s.setInputs is).window = s.window := rfl
@[simp] theorem State.setInputs_log : (s.setInputs is).log = s.log := rfl
@[simp] theorem State.setInputs_hostWords : (s.setInputs is).hostWords = s.hostWords := rfl
@[simp] theorem State.setInputs_inputs : (s.setInputs is).inputs = is := rfl

end

section
variable (s : State) (st : Status) (idx : Nat) (mask : Byte) (pix : Bool)

@[simp] theorem respond_params : (respond st idx mask pix s).params = s.params := rfl
@[simp] theorem respond_created : (respond st idx mask pix s).created = s.created := rfl
@[simp] theorem respond_allocFailed : (respond st idx mask pix s).allocFailed = s.allocFailed := rfl
@[simp] theorem respond_cfg : (respond st idx mask pix s).cfg = s.cfg := rfl
@[simp] theorem respond_image : (respond st idx mask pix s).image = s.image := rfl
@[simp] theorem respond_staging : (respond st idx mask pix s).staging = s.staging := rfl
@[simp] theorem respond_phase : (respond st idx mask pix s).phase = s.phase := rfl
@[simp] theorem respond_bc : (respond st idx mask pix s).bc = s.bc := rfl
@[simp] theorem respond_cmdReq : (respond st idx mask pix s).cmdReq = s.cmdReq := rfl
@[simp] theorem respond_window : (respond st idx mask pix s).window = s.window := rfl
@[simp] theorem respond_log : (respond st idx mask pix s).log = s.log ++ [.rsp (responseWord st idx mask pix)] := rfl
@[simp] theorem respond_hostWords : (respond st idx mask pix s).hostWords = s.hostWords := rfl
@[simp] theorem respond_inputs : (respond st idx mask pix s).inputs = s.inputs := rfl

@[simp] theorem raise_params : (raise st s).params = s.params := rfl
@[simp] theorem raise_created : (raise st s).created = s.created := rfl
@[simp] theorem raise_allocFailed : (raise st s).allocFailed = s.allocFailed := rfl
@[simp] theorem raise_cfg : (raise st s).cfg = s.cfg := rfl
@[simp] theorem raise_image : (raise st s).image = s.image := rfl
@[simp] theorem raise_staging : (raise st s).staging = s.staging := rfl
@[simp] theorem raise_phase : (raise st s).phase = s.phase := rfl
@[simp] theorem raise_bc : (raise st s).bc = s.bc := rfl
@[simp] theorem raise_cmdReq : (raise st s).cmdReq = s.cmdReq := rfl
@[simp] theorem raise_window : (raise st s).window = s.window := rfl
@[simp] theorem raise_log : (raise st s).log = s.log ++ [.rsp (responseWord st 0 0#8 false)] := rfl
@[simp] theorem raise_hostWords : (raise st s).hostWords = s.hostWords := rfl
@[simp] theorem raise_inputs : (raise st s).inputs = s.inputs := rfl

end

section
variable (s : State) (b : Byte)

@[simp] theorem requestCmdWrite_params : (requestCmdWrite b s).params = s.params := rfl
@[simp] theorem requestCmdWrite_created : (requestCmdWrite b s).created = s.created := rfl
@[simp] theorem requestCmdWrite_allocFailed : (requestCmdWrite b s).allocFailed = s.allocFailed := rfl
@[simp] theorem requestCmdWrite_cfg : (requestCmdWrite b s).cfg = s.cfg := rfl
@[simp] theorem requestCmdWrite_image : (requestCmdWrite b s).image = s.image := rfl
@[simp] theorem requestCmdWrite_staging : (requestCmdWrite b s).staging = s.staging := rfl
@[simp] theorem requestCmdWrite_phase : (requestCmdWrite b s).phase = s.phase := rfl
@[simp] theorem requestCmdWrite_bc : (requestCmdWrite b s).bc = s.bc := rfl
@[simp] theorem requestCmdWrite_cmdReq : (requestCmdWrite b s).cmdReq = some ⟨s.cfg.devAddr, Config.ctrlCmd, b⟩ := rfl
@[simp] theorem requestCmdWrite_window : (requestCmdWrite b s).window = s.window := rfl
@[simp] theorem requestCmdWrite_log : (requestCmdWrite b s).log = s.log := rfl
@[simp] theorem requestCmdWrite_hostWords : (requestCmdWrite b s).hostWords = s.hostWords := rfl
@[simp] theorem requestCmdWrite_inputs : (requestCmdWrite b s).inputs = s.inputs := rfl

end

section
variable (s : State)

@[simp] theorem State.afterSample_params : s.afterSample.params = s.params := rfl
@[simp] theorem State.afterSample_created : s.afterSample.created = s.created := rfl
@[simp] theorem State.afterSample_allocFailed : s.afterSample.allocFailed = s.allocFailed := rfl
@[simp] theorem State.afterSample_cfg : s.afterSample.cfg = s.cfg := rfl
@[simp] theorem State.afterSample_image : s.afterSample.image = s.image := rfl
@[simp] theorem State.afterSample_staging : s.afterSample.staging = s.staging := rfl
@[simp] theorem State.afterSample_phase : s.afterSample.phase = s.phase := rfl
@[simp] theorem State.afterSample_bc : s.afterSample.bc = s.bc := rfl
@[simp] theorem State.afterSample_cmdReq : s.afterSample.cmdReq = s.cmdReq := rfl
@[simp] theorem State.afterSample_window : s.afterSample.window = s.window := rfl
@[simp] theorem State.afterSample_log : s.afterSample.log = s.log := rfl
@[simp] theorem State.afterSample_hostWords : s.afterSample.hostWords = s.hostWords := rfl
@[simp] theorem State.afterSample_inputs : s.afterSample.inputs = s.inputs.tail := rfl

/-- A state is its fields: the way to prove two states equal one field at a time. -/
theorem State.ext_fields {s t : State} (h1 : s.params = t.params) (h2 : s.created = t.created)
    (h3 : s.allocFailed = t.allocFailed) (h4 : s.cfg = t.cfg) (h5 : s.image = t.image) (h6 : s.staging = t.staging)
    (h7 : s.phase = t.phase) (h8 : s.bc = t.bc) (h9 : s.cmdReq = t.cmdReq) (h10 : s.window = t.window)
    (h11 : s.log = t.log) (h12 : s.hostWords = t.hostWords) (h13 : s.inputs = t.inputs) : s = t := by
  cases s; cases t; simp_all

end

end Sys2Proof.Machine
end

