-- ==== Sys2Proof/Laws/Moves.lean ====
section
/-! SUPPORT. One lemma per field for each move of the block, so that no later proof unfolds one. -/

namespace Sys2Proof.Machine

section
variable (r : CmdRequest) (o : CmdOutcome) (s : State)

@[simp] theorem cmdReturned_params : (cmdReturned r o s).params = s.params := rfl
@[simp] theorem cmdReturned_created : (cmdReturned r o s).created = s.created := rfl
@[simp] theorem cmdReturned_allocFailed : (cmdReturned r o s).allocFailed = s.allocFailed := rfl
@[simp] theorem cmdReturned_cfg : (cmdReturned r o s).cfg = s.cfg := rfl
@[simp] theorem cmdReturned_image : (cmdReturned r o s).image = s.image := rfl
@[simp] theorem cmdReturned_staging : (cmdReturned r o s).staging = s.staging := rfl
@[simp] theorem cmdReturned_phase : (cmdReturned r o s).phase = s.phase := rfl
@[simp] theorem cmdReturned_bc : (cmdReturned r o s).bc = s.bc := rfl
@[simp] theorem cmdReturned_cmdReq : (cmdReturned r o s).cmdReq = none := rfl
@[simp] theorem cmdReturned_window : (cmdReturned r o s).window = s.window := rfl
@[simp] theorem cmdReturned_log : (cmdReturned r o s).log = s.log ++ [.cmd r.addr r.b0 r.b1 o] := rfl
@[simp] theorem cmdReturned_hostWords : (cmdReturned r o s).hostWords = s.hostWords := rfl
@[simp] theorem cmdReturned_inputs : (cmdReturned r o s).inputs = s.inputs := rfl

end

section
variable (s : State)

@[simp] theorem afterCmdError_params : (afterCmdError s).params = s.params := rfl
@[simp] theorem afterCmdError_created : (afterCmdError s).created = s.created := rfl
@[simp] theorem afterCmdError_allocFailed : (afterCmdError s).allocFailed = s.allocFailed := rfl
@[simp] theorem afterCmdError_cfg : (afterCmdError s).cfg = s.cfg := rfl
@[simp] theorem afterCmdError_image : (afterCmdError s).image = s.image := rfl
@[simp] theorem afterCmdError_staging : (afterCmdError s).staging = s.staging := rfl
@[simp] theorem afterCmdError_phase : (afterCmdError s).phase = .idle := rfl
@[simp] theorem afterCmdError_bc : (afterCmdError s).bc = s.bc := rfl
@[simp] theorem afterCmdError_cmdReq : (afterCmdError s).cmdReq = s.cmdReq := rfl
@[simp] theorem afterCmdError_window : (afterCmdError s).window = [] := rfl
@[simp] theorem afterCmdError_log : (afterCmdError s).log = s.log ++ [.rsp (responseWord .busError 0 0#8 false)] := rfl
@[simp] theorem afterCmdError_hostWords : (afterCmdError s).hostWords = s.hostWords := rfl
@[simp] theorem afterCmdError_inputs : (afterCmdError s).inputs = s.inputs := rfl

end

section
variable (s : State)

@[simp] theorem stageStep_params : (stageStep s).params = s.params := rfl
@[simp] theorem stageStep_created : (stageStep s).created = s.created := rfl
@[simp] theorem stageStep_allocFailed : (stageStep s).allocFailed = s.allocFailed := rfl
@[simp] theorem stageStep_cfg : (stageStep s).cfg = s.cfg := rfl
@[simp] theorem stageStep_image : (stageStep s).image = s.image := rfl
@[simp] theorem stageStep_staging : (stageStep s).staging = frameOf s := rfl
@[simp] theorem stageStep_phase : (stageStep s).phase = .armed := rfl
@[simp] theorem stageStep_bc : (stageStep s).bc = s.bc := rfl
@[simp] theorem stageStep_cmdReq : (stageStep s).cmdReq = s.cmdReq := rfl
@[simp] theorem stageStep_window : (stageStep s).window = s.window := rfl
@[simp] theorem stageStep_log : (stageStep s).log = s.log := rfl
@[simp] theorem stageStep_hostWords : (stageStep s).hostWords = s.hostWords := rfl
@[simp] theorem stageStep_inputs : (stageStep s).inputs = s.inputs := rfl

end

section
variable (s : State)

@[simp] theorem armStep_params : (armStep s).params = s.params := rfl
@[simp] theorem armStep_created : (armStep s).created = s.created := rfl
@[simp] theorem armStep_allocFailed : (armStep s).allocFailed = s.allocFailed := rfl
@[simp] theorem armStep_cfg : (armStep s).cfg = s.cfg := rfl
@[simp] theorem armStep_image : (armStep s).image = s.image := rfl
@[simp] theorem armStep_staging : (armStep s).staging = s.staging := rfl
@[simp] theorem armStep_phase : (armStep s).phase = .completed := rfl
@[simp] theorem armStep_bc : (armStep s).bc = triggered s := rfl
@[simp] theorem armStep_cmdReq : (armStep s).cmdReq = s.cmdReq := rfl
@[simp] theorem armStep_window : (armStep s).window = s.window := rfl
@[simp] theorem armStep_log : (armStep s).log = s.log ++ [.arm 0 s.params.dataRegAddr s.params.wordBits s.cfg.imageLen] := rfl
@[simp] theorem armStep_hostWords : (armStep s).hostWords = s.hostWords := rfl
@[simp] theorem armStep_inputs : (armStep s).inputs = s.inputs := rfl

end

section
variable (s : State)

@[simp] theorem burstFinish_params : (burstFinish s).params = s.params := rfl
@[simp] theorem burstFinish_created : (burstFinish s).created = s.created := rfl
@[simp] theorem burstFinish_allocFailed : (burstFinish s).allocFailed = s.allocFailed := rfl
@[simp] theorem burstFinish_cfg : (burstFinish s).cfg = s.cfg := rfl
@[simp] theorem burstFinish_image : (burstFinish s).image = s.image := rfl
@[simp] theorem burstFinish_staging : (burstFinish s).staging = s.staging := rfl
@[simp] theorem burstFinish_phase : (burstFinish s).phase = s.phase := rfl
@[simp] theorem burstFinish_bc : (burstFinish s).bc = s.bc.finished := rfl
@[simp] theorem burstFinish_cmdReq : (burstFinish s).cmdReq = s.cmdReq := rfl
@[simp] theorem burstFinish_window : (burstFinish s).window = s.window := rfl
@[simp] theorem burstFinish_log : (burstFinish s).log = s.log ++ [.done] := rfl
@[simp] theorem burstFinish_hostWords : (burstFinish s).hostWords = s.hostWords := rfl
@[simp] theorem burstFinish_inputs : (burstFinish s).inputs = s.inputs := rfl

end

section
variable (s : State)

@[simp] theorem flushDone_params : (flushDone s).params = s.params := rfl
@[simp] theorem flushDone_created : (flushDone s).created = s.created := rfl
@[simp] theorem flushDone_allocFailed : (flushDone s).allocFailed = s.allocFailed := rfl
@[simp] theorem flushDone_cfg : (flushDone s).cfg = s.cfg := rfl
@[simp] theorem flushDone_image : (flushDone s).image = s.image := rfl
@[simp] theorem flushDone_staging : (flushDone s).staging = [] := rfl
@[simp] theorem flushDone_phase : (flushDone s).phase = .idle := rfl
@[simp] theorem flushDone_bc : (flushDone s).bc = s.bc := rfl
@[simp] theorem flushDone_cmdReq : (flushDone s).cmdReq = s.cmdReq := rfl
@[simp] theorem flushDone_window : (flushDone s).window = s.window := rfl
@[simp] theorem flushDone_log : (flushDone s).log = s.log ++ [.rsp (responseWord .ok 0 0#8 false)] := rfl
@[simp] theorem flushDone_hostWords : (flushDone s).hostWords = s.hostWords := rfl
@[simp] theorem flushDone_inputs : (flushDone s).inputs = s.inputs := rfl

end

section
variable (s : State)

@[simp] theorem hardwareReset_params : (hardwareReset s).params = s.params := rfl
@[simp] theorem hardwareReset_created : (hardwareReset s).created = false := rfl
@[simp] theorem hardwareReset_allocFailed : (hardwareReset s).allocFailed = false := rfl
@[simp] theorem hardwareReset_cfg : (hardwareReset s).cfg = Cfg.atReset := rfl
@[simp] theorem hardwareReset_image : (hardwareReset s).image = [] := rfl
@[simp] theorem hardwareReset_staging : (hardwareReset s).staging = [] := rfl
@[simp] theorem hardwareReset_phase : (hardwareReset s).phase = .idle := rfl
@[simp] theorem hardwareReset_bc : (hardwareReset s).bc = Burst.atReset := rfl
@[simp] theorem hardwareReset_cmdReq : (hardwareReset s).cmdReq = none := rfl
@[simp] theorem hardwareReset_window : (hardwareReset s).window = [] := rfl
@[simp] theorem hardwareReset_log : (hardwareReset s).log = [] := rfl
@[simp] theorem hardwareReset_hostWords : (hardwareReset s).hostWords = s.hostWords := rfl
@[simp] theorem hardwareReset_inputs : (hardwareReset s).inputs = s.inputs := rfl

end

section
variable (width height : Nat) (addr : DevAddr) (s : State)

@[simp] theorem createImage_params : (createImage width height addr s).params = s.params := rfl
@[simp] theorem createImage_created : (createImage width height addr s).created = true := rfl
@[simp] theorem createImage_allocFailed : (createImage width height addr s).allocFailed = s.allocFailed := rfl
@[simp] theorem createImage_cfg : (createImage width height addr s).cfg = Cfg.ofOperands width height addr := rfl
@[simp] theorem createImage_image : (createImage width height addr s).image = clearedImage s.image (imageLenOf width height) := rfl
@[simp] theorem createImage_staging : (createImage width height addr s).staging = s.staging := rfl
@[simp] theorem createImage_phase : (createImage width height addr s).phase = s.phase := rfl
@[simp] theorem createImage_bc : (createImage width height addr s).bc = s.bc := rfl
@[simp] theorem createImage_cmdReq : (createImage width height addr s).cmdReq = s.cmdReq := rfl
@[simp] theorem createImage_window : (createImage width height addr s).window = s.window := rfl
@[simp] theorem createImage_log : (createImage width height addr s).log = s.log := rfl
@[simp] theorem createImage_hostWords : (createImage width height addr s).hostWords = s.hostWords := rfl
@[simp] theorem createImage_inputs : (createImage width height addr s).inputs = s.inputs := rfl

end

section
variable (rest : List CmdWord) (s : State)

@[simp] theorem taken_params : (taken s rest).params = s.params := rfl
@[simp] theorem taken_created : (taken s rest).created = s.created := rfl
@[simp] theorem taken_allocFailed : (taken s rest).allocFailed = s.allocFailed := rfl
@[simp] theorem taken_cfg : (taken s rest).cfg = s.cfg := rfl
@[simp] theorem taken_image : (taken s rest).image = s.image := rfl
@[simp] theorem taken_staging : (taken s rest).staging = s.staging := rfl
@[simp] theorem taken_phase : (taken s rest).phase = s.phase := rfl
@[simp] theorem taken_bc : (taken s rest).bc = s.bc := rfl
@[simp] theorem taken_cmdReq : (taken s rest).cmdReq = s.cmdReq := rfl
@[simp] theorem taken_window : (taken s rest).window = s.window := rfl
@[simp] theorem taken_log : (taken s rest).log = s.log := rfl
@[simp] theorem taken_hostWords : (taken s rest).hostWords = rest := rfl
@[simp] theorem taken_inputs : (taken s rest).inputs = s.inputs.tail := rfl

end

section
variable (s : State)

@[simp] theorem windowStep_params : (windowStep s).params = s.params := by unfold windowStep; split <;> rfl
@[simp] theorem windowStep_created : (windowStep s).created = s.created := by unfold windowStep; split <;> rfl
@[simp] theorem windowStep_allocFailed : (windowStep s).allocFailed = s.allocFailed := by unfold windowStep; split <;> rfl
@[simp] theorem windowStep_cfg : (windowStep s).cfg = s.cfg := by unfold windowStep; split <;> rfl
@[simp] theorem windowStep_image : (windowStep s).image = s.image := by unfold windowStep; split <;> rfl
@[simp] theorem windowStep_staging : (windowStep s).staging = s.staging := by unfold windowStep; split <;> rfl
@[simp] theorem windowStep_bc : (windowStep s).bc = s.bc := by unfold windowStep; split <;> rfl
@[simp] theorem windowStep_log : (windowStep s).log = s.log := by unfold windowStep; split <;> rfl
@[simp] theorem windowStep_hostWords : (windowStep s).hostWords = s.hostWords := by unfold windowStep; split <;> rfl
@[simp] theorem windowStep_inputs : (windowStep s).inputs = s.inputs := by unfold windowStep; split <;> rfl
@[simp] theorem windowStep_window : (windowStep s).window = s.window.tail := by
  unfold windowStep
  split <;> simp [*]

@[simp] theorem flushStart_params : (flushStart s).params = s.params := by simp [flushStart]
@[simp] theorem flushStart_created : (flushStart s).created = s.created := by simp [flushStart]
@[simp] theorem flushStart_allocFailed : (flushStart s).allocFailed = s.allocFailed := by simp [flushStart]
@[simp] theorem flushStart_cfg : (flushStart s).cfg = s.cfg := by simp [flushStart]
@[simp] theorem flushStart_image : (flushStart s).image = s.image := by simp [flushStart]
@[simp] theorem flushStart_staging : (flushStart s).staging = s.staging := by simp [flushStart]
@[simp] theorem flushStart_bc : (flushStart s).bc = s.bc := by simp [flushStart]
@[simp] theorem flushStart_log : (flushStart s).log = s.log := by simp [flushStart]
@[simp] theorem flushStart_hostWords : (flushStart s).hostWords = s.hostWords := by simp [flushStart]
@[simp] theorem flushStart_inputs : (flushStart s).inputs = s.inputs := by simp [flushStart]
@[simp] theorem flushStart_window : (flushStart s).window = (addressWindow s.params s.cfg).tail := by simp [flushStart]

@[simp] theorem afterCmdOk_params : (afterCmdOk s).params = s.params := by unfold afterCmdOk; split <;> simp
@[simp] theorem afterCmdOk_created : (afterCmdOk s).created = s.created := by unfold afterCmdOk; split <;> simp
@[simp] theorem afterCmdOk_allocFailed : (afterCmdOk s).allocFailed = s.allocFailed := by unfold afterCmdOk; split <;> simp
@[simp] theorem afterCmdOk_cfg : (afterCmdOk s).cfg = s.cfg := by unfold afterCmdOk; split <;> simp
@[simp] theorem afterCmdOk_image : (afterCmdOk s).image = s.image := by unfold afterCmdOk; split <;> simp
@[simp] theorem afterCmdOk_staging : (afterCmdOk s).staging = s.staging := by unfold afterCmdOk; split <;> simp
@[simp] theorem afterCmdOk_bc : (afterCmdOk s).bc = s.bc := by unfold afterCmdOk; split <;> simp
@[simp] theorem afterCmdOk_hostWords : (afterCmdOk s).hostWords = s.hostWords := by unfold afterCmdOk; split <;> simp
@[simp] theorem afterCmdOk_inputs : (afterCmdOk s).inputs = s.inputs := by unfold afterCmdOk; split <;> simp
@[simp] theorem afterCmdOk_log :
    (afterCmdOk s).log = s.log ++ if s.phase = .idle then [.rsp (responseWord .ok 0 0#8 false)] else [] := by
  unfold afterCmdOk
  split <;> simp [*]

end

section
variable (s : State)

@[simp] theorem rejectIllegal_params : (rejectIllegal s).params = s.params := by unfold rejectIllegal; split <;> rfl
@[simp] theorem rejectIllegal_created : (rejectIllegal s).created = s.created := by unfold rejectIllegal; split <;> rfl
@[simp] theorem rejectIllegal_allocFailed : (rejectIllegal s).allocFailed = s.allocFailed := by unfold rejectIllegal; split <;> rfl
@[simp] theorem rejectIllegal_cfg : (rejectIllegal s).cfg = s.cfg := by unfold rejectIllegal; split <;> rfl
@[simp] theorem rejectIllegal_image : (rejectIllegal s).image = s.image := by unfold rejectIllegal; split <;> rfl
@[simp] theorem rejectIllegal_staging : (rejectIllegal s).staging = s.staging := by unfold rejectIllegal; split <;> rfl
@[simp] theorem rejectIllegal_phase : (rejectIllegal s).phase = s.phase := by unfold rejectIllegal; split <;> rfl
@[simp] theorem rejectIllegal_bc : (rejectIllegal s).bc = s.bc := by unfold rejectIllegal; split <;> rfl
@[simp] theorem rejectIllegal_cmdReq : (rejectIllegal s).cmdReq = s.cmdReq := by unfold rejectIllegal; split <;> rfl
@[simp] theorem rejectIllegal_window : (rejectIllegal s).window = s.window := by unfold rejectIllegal; split <;> rfl
@[simp] theorem rejectIllegal_log :
    (rejectIllegal s).log =
      s.log ++ [.rsp (responseWord (if s.allocFailed then .allocFail else .illegalCmd) 0 0#8 false)] := by
  unfold rejectIllegal
  split <;> rfl
@[simp] theorem rejectIllegal_hostWords : (rejectIllegal s).hostWords = s.hostWords := by unfold rejectIllegal; split <;> rfl
@[simp] theorem rejectIllegal_inputs : (rejectIllegal s).inputs = s.inputs := by unfold rejectIllegal; split <;> rfl

end

end Sys2Proof.Machine
end

