-- ==== Sys2Proof/Laws/OpcodeMap.lean ====
section
/-! SUPPORT. Each row of the opcode map in terms of the slices of the word it selects (R56). -/

namespace Sys2Proof

/-- A masked word is a given one when they agree bit by bit. -/
theorem and_eq_iff_bits (m k w : CmdWord) :
    w &&& m = k ↔ ∀ i < 32, (w.getLsbD i && m.getLsbD i) = k.getLsbD i :=
  ⟨by rintro rfl i _; simp, fun h => BitVec.eq_of_getLsbD_eq fun i hi => by simpa using h i hi⟩

/-- A slice is a given vector when they agree bit by bit. -/
theorem slice_eq_iff_bits (w : CmdWord) (lo len : Nat) (b : BitVec len) :
    slice w lo len = b ↔ ∀ i < len, w.getLsbD (lo + i) = b.getLsbD i :=
  ⟨by rintro rfl i hi; simp [slice, hi], fun h =>
    BitVec.eq_of_getLsbD_eq fun i hi => by simpa [slice, hi] using h i hi⟩

/-- A bounded statement about the first two numbers, in the form simp reaches. -/
theorem forall_le_one (P : Nat → Prop) : (∀ m ≤ 1, P m) ↔ P 0 ∧ P 1 :=
  ⟨fun h => ⟨h 0 (by decide), h 1 (by decide)⟩, fun h m hm => by interval_cases m <;> tauto⟩

theorem selects_init (w : CmdWord) : w &&& 0xF0000000#32 = 0x10000000#32 ↔ slice w 28 4 = 1#4 := by
  simp only [and_eq_iff_bits, slice_eq_iff_bits]
  simp [Nat.forall_lt_succ_right, forall_le_one, and_assoc]

theorem selects_locate (w : CmdWord) :
    w &&& 0xFF000000#32 = 0x20000000#32 ↔ slice w 28 4 = 2#4 ∧ slice w 24 4 = 0#4 := by
  simp only [and_eq_iff_bits, slice_eq_iff_bits]
  simp [Nat.forall_lt_succ_right, forall_le_one]
  constructor <;> intro h <;> simp [h]

theorem selects_setpix (w : CmdWord) :
    w &&& 0xFE000000#32 = 0x30000000#32 ↔ slice w 28 4 = 3#4 ∧ slice w 25 3 = 0#3 := by
  simp only [and_eq_iff_bits, slice_eq_iff_bits]
  simp [Nat.forall_lt_succ_right, forall_le_one]
  constructor <;> intro h <;> simp [h]

theorem selects_getpix (w : CmdWord) :
    w &&& 0xFF000000#32 = 0x40000000#32 ↔ slice w 28 4 = 4#4 ∧ slice w 24 4 = 0#4 := by
  simp only [and_eq_iff_bits, slice_eq_iff_bits]
  simp [Nat.forall_lt_succ_right, forall_le_one]
  constructor <;> intro h <;> simp [h]

theorem selects_fill (w : CmdWord) :
    w &&& 0xFEFFFFFF#32 = 0x50000000#32 ↔ slice w 28 4 = 5#4 ∧ slice w 25 3 = 0#3 ∧ slice w 0 24 = 0#24 := by
  simp only [and_eq_iff_bits, slice_eq_iff_bits]
  simp [Nat.forall_lt_succ_right, forall_le_one]
  constructor <;> intro h <;> simp [h]

theorem selects_sendcmd (w : CmdWord) :
    w &&& 0xFFFFFF00#32 = 0x60000000#32 ↔ slice w 28 4 = 6#4 ∧ slice w 8 20 = 0#20 := by
  simp only [and_eq_iff_bits, slice_eq_iff_bits]
  simp [Nat.forall_lt_succ_right, forall_le_one]
  constructor <;> intro h <;> simp [h]

theorem selects_flush (w : CmdWord) :
    w &&& 0xFFFFFFFF#32 = 0x70000000#32 ↔ slice w 28 4 = 7#4 ∧ slice w 0 28 = 0#28 := by
  simp only [and_eq_iff_bits, slice_eq_iff_bits]
  simp [Nat.forall_lt_succ_right, forall_le_one]
  constructor <;> intro h <;> simp [h]

end Sys2Proof
end

