-- ==== Sys2Proof/Laws/Ops.lean ====
section
/-! SUPPORT. What each shared operation can do, said once: the fields of a response word, the common checks, the pixel
checks, and the small facts about the operands. -/

namespace Sys2Proof.Machine

/-- A response word as a number. -/
theorem toNat_responseWord (st : Status) (idx : Nat) (mask : Byte) (pix : Bool) :
    (responseWord st idx mask pix).toNat =
      st.code.toNat * 268435456 + pix.toNat * 16777216 + mask.toNat * 65536 + idx % 65536 := by
  have hm := mask.isLt
  have hs := st.code.isLt
  have hp := Bool.toNat_le pix
  simp only [responseWord, BitVec.toNat_ofNat, place]
  omega

/-- The fields of a response word (R58). -/
theorem fields_responseWord (st : Status) {idx : Nat} (h : idx < 65536) (mask : Byte) (pix : Bool) :
    statusField (responseWord st idx mask pix) = st.code ∧ slice (responseWord st idx mask pix) 25 3 = 0#3 ∧
      (idxField (responseWord st idx mask pix)).toNat = idx ∧ maskField (responseWord st idx mask pix) = mask ∧
      pixField (responseWord st idx mask pix) = pix := by
  have hm := mask.isLt
  have hs := st.code.isLt
  have hp := Bool.toNat_le pix
  refine ⟨?_, ?_, ?_, ?_, ?_⟩
  · refine (slice_eq_iff _ 28 4 _).2 ?_
    rw [toNat_responseWord]; omega
  · refine (slice_eq_iff _ 25 3 _).2 ?_
    rw [toNat_responseWord]; simp; omega
  · refine (toNat_slice _ 0 16).trans ?_
    rw [toNat_responseWord]; omega
  · refine (slice_eq_iff _ 16 8 _).2 ?_
    rw [toNat_responseWord]; omega
  · unfold pixField
    rw [beq_eq_decide]
    have : slice (responseWord st idx mask pix) 24 1 = 1#1 ↔ pix = true := by
      rw [slice_eq_iff, toNat_responseWord]; cases pix <;> simp <;> omega
    cases pix <;> simp_all [slice]

/-- An answering operation answers (R8, R58). -/
theorem respond_answers (s : State) (st : Status) {idx : Nat} (h : idx < 65536) (mask : Byte) (pix : Bool) :
    Answers s (respond st idx mask pix s) st idx mask pix := by
  obtain ⟨h1, h2, h3, h4, h5⟩ := fields_responseWord st h mask pix
  exact ⟨_, rfl, h1, h2, h3, h4, h5⟩

/-- An error response answers its status with every result field zero (R8, R58). -/
theorem raise_answers (s : State) (st : Status) : Answers s (raise st s) st 0 0#8 false :=
  respond_answers s st (by decide) _ _

/-- The common checks of every operation but INIT: what can come of them. -/
theorem whenCreated_cases (s : State) (k : Host.Outcome State Fault Refusal) :
    (s.allocFailed = true ∧ whenCreated s k = .next (raise .allocFail s)) ∨
      (s.allocFailed = false ∧ s.created = false ∧ whenCreated s k = .next (raise .notCreated s)) ∨
      (s.allocFailed = false ∧ s.created = true ∧ whenCreated s k = k) := by
  unfold whenCreated
  cases s.allocFailed <;> cases s.created <;> simp

/-- On a created block the common checks let the operation through. -/
theorem whenCreated_pass {s : State} (ha : s.allocFailed = false) (hc : s.created = true)
    (k : Host.Outcome State Fault Refusal) : whenCreated s k = k := by
  simp [whenCreated, ha, hc]

/-- The common checks of INIT: what can come of them. -/
theorem whenNotCreated_cases (s : State) (k : Host.Outcome State Fault Refusal) :
    (s.allocFailed = true ∧ whenNotCreated s k = .next (raise .allocFail s)) ∨
      (s.allocFailed = false ∧ s.created = true ∧ whenNotCreated s k = .next (raise .alreadyCreated s)) ∨
      (s.allocFailed = false ∧ s.created = false ∧ whenNotCreated s k = k) := by
  unfold whenNotCreated
  cases s.allocFailed <;> cases s.created <;> simp

/-- The pixel checks: what can come of them. -/
theorem withPixel_cases (s : State) (x y : Nat) (k : Host.Outcome State Fault Refusal) :
    (¬s.cfg.InRange x y ∧ withPixel s x y k = .fault .pixelOutOfRange) ∨
      (s.cfg.InRange x y ∧ ¬s.cfg.InImage (byteIndex x y) ∧ withPixel s x y k = .fault .pixelNotInImage) ∨
      (s.cfg.InRange x y ∧ s.cfg.InImage (byteIndex x y) ∧ withPixel s x y k = k) := by
  unfold withPixel
  by_cases h1 : s.cfg.InRange x y
  · by_cases h2 : s.cfg.InImage (byteIndex x y)
    · exact Or.inr (Or.inr ⟨h1, h2, by rw [if_pos h1, if_pos h2]⟩)
    · exact Or.inr (Or.inl ⟨h1, h2, by rw [if_pos h1, if_neg h2]⟩)
  · exact Or.inl ⟨h1, by rw [if_neg h1]⟩

/-- The arms of `exec`, one lemma each. -/
@[simp] theorem exec_init (width height : Nat) (addr : DevAddr) (s : State) :
    exec (.init width height addr) s = execInit width height addr s := rfl
@[simp] theorem exec_locate (x y : Nat) (s : State) : exec (.locate x y) s = execLocate x y s := rfl
@[simp] theorem exec_setpix (x y : Nat) (v : Bool) (s : State) : exec (.setpix x y v) s = execSetpix x y v s := rfl
@[simp] theorem exec_getpix (x y : Nat) (s : State) : exec (.getpix x y) s = execGetpix x y s := rfl
@[simp] theorem exec_fill (v : Bool) (s : State) : exec (.fill v) s = execFill v s := rfl
@[simp] theorem exec_sendcmd (cmd : Byte) (s : State) : exec (.sendcmd cmd) s = execSendcmd cmd s := rfl
@[simp] theorem exec_flush (s : State) : exec .flush s = execFlush s := rfl

/-- An illegal word is answered with an error response and nothing else (R164). -/
theorem rejectIllegal_eq_raise (s : State) :
    (s.allocFailed = true ∧ rejectIllegal s = raise .allocFail s) ∨
      (s.allocFailed = false ∧ rejectIllegal s = raise .illegalCmd s) := by
  unfold rejectIllegal
  cases s.allocFailed <;> simp

/-- Phase AddressWindowSet asks for its next byte or, after the last, is left (R112). -/
theorem windowStep_cases (s : State) :
    (∃ b bs, s.window = b :: bs ∧ windowStep s = requestCmdWrite b (s.setWindow bs)) ∨
      (s.window = [] ∧ windowStep s = s.setPhase .staged) := by
  unfold windowStep
  split
  next b bs h => exact Or.inl ⟨b, bs, h, rfl⟩
  next h => exact Or.inr ⟨h, rfl⟩

/-- After a bus write that returned `ok` SENDCMD answers, and FLUSH asks for its next bus write or leaves the phase; no bus
write is outstanding in any other phase (R100, R112). -/
theorem afterCmdOk_cases (s : State) :
    (s.phase = .idle ∧ afterCmdOk s = respond .ok 0 0#8 false s) ∨
      (s.phase = .addressWindowSet ∧ afterCmdOk s = windowStep s) ∨
      (s.phase ≠ .idle ∧ s.phase ≠ .addressWindowSet ∧ afterCmdOk s = s) := by
  unfold afterCmdOk
  cases h : s.phase <;> simp

/-- The address window is never empty (R63). -/
theorem addressWindow_ne_nil (p : Config.Params) (c : Cfg) : addressWindow p c ≠ [] := by
  simp [addressWindow]

/-- A flush starts with the request of the first byte of `AW` (R110, R112). -/
theorem flushStart_eq (s : State) : ∃ b bs, addressWindow s.params s.cfg = b :: bs ∧
    flushStart s = requestCmdWrite b ((s.setWindow bs).setPhase .addressWindowSet) := by
  obtain ⟨b, bs, h⟩ := List.exists_cons_of_ne_nil (addressWindow_ne_nil s.params s.cfg)
  exact ⟨b, bs, h, by rw [flushStart, h]; rfl⟩

@[simp] theorem flushStart_phase (s : State) : (flushStart s).phase = .addressWindowSet := by
  obtain ⟨b, bs, _, h⟩ := flushStart_eq s
  rw [h]
  rfl

/-- A flush starts with a bus write outstanding. -/
@[simp] theorem flushStart_cmdReq_ne_none (s : State) : (flushStart s).cmdReq ≠ none := by
  obtain ⟨b, bs, _, h⟩ := flushStart_eq s
  rw [h]
  nofun

/-- Marking the last word keeps the number of words (R115). -/
@[simp] theorem length_markLast (p : Config.Params) (ws : List WideWord) : (markLast p ws).length = ws.length := by
  induction ws using markLast.induct with
  | case1 => rfl
  | case2 w => rfl
  | case3 w w' ws ih => simp [markLast, ih]

/-- Only the last word is marked (R115). -/
theorem markLast_append (p : Config.Params) (ws : List WideWord) (w : WideWord) :
    markLast p (ws ++ [w]) = ws ++ [w ||| termMarker p] := by
  induction ws using markLast.induct with
  | case1 => rfl
  | case2 w => rfl
  | case3 w w' ws ih =>
    show w :: markLast p (w' :: ws ++ [_]) = _
    rw [ih]
    rfl

/-- One word for each byte of the image (R114). -/
@[simp] theorem length_bytes (m : Memory) (len : Nat) : (m.bytes len).length = len := by
  simp [Memory.bytes]

@[simp] theorem length_frameOf (s : State) : (frameOf s).length = s.cfg.imageLen := by
  simp [frameOf]

/-- The marker does not overlap an image byte, so that setting it is adding it (R62, R115). -/
theorem or_termMarker {p : Config.Params} (h : p.Legal) (b : Byte) :
    zextWide b ||| termMarker p = b.toNat + 2 ^ p.termBit := by
  have hb : b.toNat < 2 ^ p.termBit :=
    Nat.lt_of_lt_of_le b.isLt (Nat.pow_le_pow_right (by decide) h.2.1)
  have := Nat.shiftLeft_add_eq_or_of_lt hb 1
  rw [zextWide, termMarker, Nat.or_comm, ← this, Nat.shiftLeft_eq, Nat.one_mul, Nat.add_comm]

/-- The words of a frame: the image bytes, the marker added to the last (R116). -/
theorem frameOf_eq {s : State} (h : s.params.Legal) {n : Nat} (hn : s.cfg.imageLen = n + 1) :
    frameOf s = (List.range n).map (fun i => (s.image.read i).toNat) ++ [(s.image.read n).toNat + 2 ^ s.params.termBit] := by
  rw [frameOf, hn, Memory.bytes, List.range_succ, List.map_append, List.map_append]
  simp only [List.map_cons, List.map_nil, markLast_append, or_termMarker h, List.map_map]
  rfl

end Sys2Proof.Machine
end

