-- ==== Sys2Proof/Laws/PerInstr.lean ====
section
/-! SUPPORT. Statements made of every instruction as syntax, one lemma for each constructor. -/

/-- The word of a well-formed instruction carries the opcode of its row of the opcode map (R56): the number of its
constructor. -/
def Sys2Proof.Laws.OpcodeOfEncoding.Statement (i : Sys2Proof.Instr) : Prop :=
  (Sys2Proof.opcField (Sys2Proof.encode i)).toNat =
    match i with
    | .init _ _ _ => 1
    | .locate _ _ => 2
    | .setpix _ _ _ => 3
    | .getpix _ _ => 4
    | .fill _ => 5
    | .sendcmd _ => 6
    | .flush => 7

namespace Sys2Proof.Laws.OpcodeOfEncoding

theorem init (width height : Nat) (addr : DevAddr) : Statement (.init width height addr) :=
  (fields_formatG (by decide) addr height width).1

theorem locate (x y : Nat) : Statement (.locate x y) := (fields_formatP (by decide) false y x).1

theorem setpix (x y : Nat) (v : Bool) : Statement (.setpix x y v) := (fields_formatP (by decide) v y x).1

theorem getpix (x y : Nat) : Statement (.getpix x y) := (fields_formatP (by decide) false y x).1

theorem fill (v : Bool) : Statement (.fill v) := (fields_formatV (by decide) v).1

theorem sendcmd (cmd : Byte) : Statement (.sendcmd cmd) := (fields_formatB (by decide) cmd).1

theorem flush : Statement .flush := (fields_formatN (by decide)).1

end Sys2Proof.Laws.OpcodeOfEncoding
end

