-- ==== Sys2Proof/Laws/Step.lean ====
section
/-! SUPPORT. What an instruction and a step can do, said once (the inversion lemmas that proofs about all steps start
from), and how the runs of `Safety.lean` behave. -/

namespace Sys2Proof.Machine

/-- Everything a next state of an operation can be, on a block that is created and has not failed to allocate. -/
inductive Done (s : State) : Instr → State → Prop where
  | locate {x y : Nat} (hr : s.cfg.InRange x y) :
    Done s (.locate x y) (respond .ok (byteIndex x y) (pixelMask y) false s)
  | setpix {x y : Nat} {v : Bool} (hr : s.cfg.InRange x y) (hi : s.cfg.InImage (byteIndex x y)) :
    Done s (.setpix x y v) (respond .ok 0 0#8 false (s.setImage (writePixel s.image x y v)))
  | getpix {x y : Nat} (hr : s.cfg.InRange x y) (hi : s.cfg.InImage (byteIndex x y)) :
    Done s (.getpix x y) (respond .ok 0 0#8 (readPixel s.image x y) s)
  | fill {v : Bool} {m : Memory}
    (hf : fillPixels s.cfg.imageLen v (pixelDomain s.cfg.width s.cfg.height) s.image = some m) :
    Done s (.fill v) (respond .ok 0 0#8 false (s.setImage m))
  | sendcmd {cmd : Byte} : Done s (.sendcmd cmd) (requestCmdWrite cmd s)
  | flush : Done s .flush (flushStart s)

/-- The status with which a check of R167 refuses an operation, before it changes anything. -/
inductive RefusedWith (s : State) : Instr → Status → Prop where
  | allocFail {i : Instr} (ha : s.allocFailed = true) : RefusedWith s i .allocFail
  | notCreated {i : Instr} (ha : s.allocFailed = false) (hc : s.created = false) (hi : ∀ w h a, i ≠ .init w h a) :
    RefusedWith s i .notCreated
  | alreadyCreated {w h : Nat} {a : DevAddr} (ha : s.allocFailed = false) (hc : s.created = true) :
    RefusedWith s (.init w h a) .alreadyCreated
  | badGeometry {w h : Nat} {a : DevAddr} (ha : s.allocFailed = false) (hc : s.created = false)
    (hg : ¬GeometryOk w h) : RefusedWith s (.init w h a) .badGeometry

/-- A refusal is never `OK`. -/
theorem RefusedWith.ne_ok {s : State} {i : Instr} {st : Status} (h : RefusedWith s i st) : st ≠ .ok := by
  cases h <;> decide

/-- Everything an instruction can do when it gives a next state: be refused by a check of R167, fail to allocate, create
the image, or run on a created block. -/
theorem exec_next_cases {i : Instr} {s t : State} (h : exec i s = .next t) :
    (∃ st, RefusedWith s i st ∧ t = raise st s) ∨
      (∃ width height addr, i = .init width height addr ∧ s.allocFailed = false ∧ s.created = false ∧
        GeometryOk width height ∧
        ((s.params.maxImageLen < imageLenOf width height ∧ t = raise .allocFail (s.setAllocFailed true)) ∨
          (imageLenOf width height ≤ s.params.maxImageLen ∧
            t = respond .ok 0 0#8 false (createImage width height addr s)))) ∨
      (s.allocFailed = false ∧ s.created = true ∧ Done s i t) := by
  have refused : ∀ {st}, RefusedWith s i st →
      (Host.Outcome.next (raise st s) : Host.Outcome State Fault Refusal) = .next t →
      ∃ st, RefusedWith s i st ∧ t = raise st s := fun hst e => ⟨_, hst, by injection e with e; exact e.symm⟩
  have run : ∀ (k : Host.Outcome State Fault Refusal), (∀ w h a, i ≠ .init w h a) → whenCreated s k = .next t →
      (k = .next t → Done s i t) →
      (∃ st, RefusedWith s i st ∧ t = raise st s) ∨ (s.allocFailed = false ∧ s.created = true ∧ Done s i t) := by
    intro k hi e hk
    rcases whenCreated_cases s k with ⟨h1, e'⟩ | ⟨h1, h2, e'⟩ | ⟨h1, h2, e'⟩ <;> rw [e'] at e
    · exact Or.inl (refused (.allocFail h1) e)
    · exact Or.inl (refused (.notCreated h1 h2 hi) e)
    · exact Or.inr ⟨h1, h2, hk e⟩
  cases i with
  | init width height addr =>
    rcases whenNotCreated_cases s (if GeometryOk width height then
      if s.params.maxImageLen < imageLenOf width height then .next (raise .allocFail (s.setAllocFailed true))
      else answer .ok 0 0#8 false (createImage width height addr s)
      else .next (raise .badGeometry s)) with ⟨h1, e⟩ | ⟨h1, h2, e⟩ | ⟨h1, h2, e⟩
    all_goals
      rw [exec, execInit, e] at h
    · exact Or.inl (refused (.allocFail h1) h)
    · exact Or.inl (refused (.alreadyCreated h1 h2) h)
    · split at h
      next hg =>
        refine Or.inr (Or.inl ⟨width, height, addr, rfl, h1, h2, hg, ?_⟩)
        split at h
        next hfit => exact Or.inl ⟨hfit, by injection h with h; exact h.symm⟩
        next hfit => exact Or.inr ⟨Nat.le_of_not_lt hfit, by rw [answer] at h; injection h with h; exact h.symm⟩
      next hg => exact Or.inl (refused (.badGeometry h1 h2 hg) h)
  | locate x y =>
    refine (run _ (by intros; nofun) h fun e => ?_).imp id Or.inr
    split at e
    next hr => rw [answer] at e; injection e with e; exact e ▸ .locate hr
    next => nomatch e
  | setpix x y v =>
    refine (run _ (by intros; nofun) h fun e => ?_).imp id Or.inr
    rcases withPixel_cases s x y _ with ⟨_, e'⟩ | ⟨_, _, e'⟩ | ⟨hr, hi, e'⟩ <;> rw [e'] at e
    · nomatch e
    · nomatch e
    · rw [answer] at e; injection e with e; exact e ▸ .setpix hr hi
  | getpix x y =>
    refine (run _ (by intros; nofun) h fun e => ?_).imp id Or.inr
    rcases withPixel_cases s x y _ with ⟨_, e'⟩ | ⟨_, _, e'⟩ | ⟨hr, hi, e'⟩ <;> rw [e'] at e
    · nomatch e
    · nomatch e
    · rw [answer] at e; injection e with e; exact e ▸ .getpix hr hi
  | fill v =>
    refine (run _ (by intros; nofun) h fun e => ?_).imp id Or.inr
    split at e
    next m hf => rw [answer] at e; injection e with e; exact e ▸ .fill hf
    next => nomatch e
  | sendcmd cmd => exact (run _ (by intros; nofun) h fun e => by injection e with e; exact e ▸ .sendcmd).imp id Or.inr
  | flush => exact (run _ (by intros; nofun) h fun e => by injection e with e; exact e ▸ .flush).imp id Or.inr

/-- What no operation writes: the parameters, the staging memory, the burst channel, the inputs and the words to come. -/
theorem exec_unchanged {i : Instr} {s t : State} (h : exec i s = .next t) :
    t.params = s.params ∧ t.staging = s.staging ∧ t.bc = s.bc ∧ t.hostWords = s.hostWords ∧ t.inputs = s.inputs := by
  rcases exec_next_cases h with ⟨st, _, rfl⟩ | ⟨w, hh, a, _, _, _, _, ⟨_, rfl⟩ | ⟨_, rfl⟩⟩ | ⟨_, _, hd⟩
  · simp
  · simp
  · simp
  · cases hd <;> simp

/-- A step samples its inputs and, without a reset, is the step the state allows. -/
theorem step_no_reset {s : State} (h : s.sampled.reset = false) : step s = advance s.sampled s.afterSample := by
  simp [step, cycle, h]

/-- A step that samples a reset is the reset (R181). -/
theorem step_reset {s : State} (h : s.sampled.reset = true) : step s = .next (hardwareReset s.afterSample) := by
  simp [step, cycle, h]

/-- Everything a step without a reset can do when it gives a next state, on the state whose inputs have been sampled. -/
inductive Advanced (inp : Inputs) (s : State) : State → Prop where
  | unanswered {r : CmdRequest} (hr : s.cmdReq = some r) (ha : inp.cmdAnswer = none) : Advanced inp s s
  | answeredOk {r : CmdRequest} (hr : s.cmdReq = some r) (ha : inp.cmdAnswer = some .ok) :
    Advanced inp s (afterCmdOk (cmdReturned r .ok s))
  | answeredError {r : CmdRequest} (hr : s.cmdReq = some r) (ha : inp.cmdAnswer = some .error) :
    Advanced inp s (afterCmdError (cmdReturned r .error s))
  | noWord (hs : s.Ready) (hw : s.hostWords = []) : Advanced inp s s
  | illegal {w : CmdWord} {rest : List CmdWord} {e : Illegal} (hs : s.Ready) (hw : s.hostWords = w :: rest)
    (hd : decode w = .error e) : Advanced inp s (rejectIllegal (s.setHostWords rest))
  | run {w : CmdWord} {rest : List CmdWord} {i : Instr} {t : State} (hs : s.Ready) (hw : s.hostWords = w :: rest)
    (hd : decode w = .ok i) (he : exec i (s.setHostWords rest) = .next t) : Advanced inp s t
  | windowByte {b : Byte} {bs : List Byte} (hp : s.phase = .addressWindowSet) (hr : s.cmdReq = none)
    (hw : s.window = b :: bs) : Advanced inp s (requestCmdWrite b (s.setWindow bs))
  | windowDone (hp : s.phase = .addressWindowSet) (hr : s.cmdReq = none) (hw : s.window = []) :
    Advanced inp s (s.setPhase .staged)
  | stage (hp : s.phase = .staged) (hr : s.cmdReq = none) : Advanced inp s (stageStep s)
  | arm (hp : s.phase = .armed) (hr : s.cmdReq = none) : Advanced inp s (armStep s)
  | move {w : WideWord} (hp : s.phase = .completed) (hr : s.cmdReq = none) (ha : s.bc.active = true)
    (hm : s.bc.remaining ≠ 0) (ht : inp.txReady = true) (hw : s.staging[s.bc.src + s.bc.pos]? = some w) :
    Advanced inp s ((s.logEvent (.data w)).setBc s.bc.moved)
  | notReady (hp : s.phase = .completed) (hr : s.cmdReq = none) (ha : s.bc.active = true)
    (hm : s.bc.remaining ≠ 0) (ht : inp.txReady = false) : Advanced inp s s
  | finish (hp : s.phase = .completed) (hr : s.cmdReq = none) (ha : s.bc.active = true) (hm : s.bc.remaining = 0) :
    Advanced inp s (burstFinish s)
  | returnIdle (hp : s.phase = .completed) (hr : s.cmdReq = none) (ha : s.bc.active = false) (hd : s.bc.done = true) :
    Advanced inp s (flushDone s)
  | noReport (hp : s.phase = .completed) (hr : s.cmdReq = none) (ha : s.bc.active = false) (hd : s.bc.done = false) :
    Advanced inp s s

/-- The inversion of `advance`. -/
theorem advance_next_cases {inp : Inputs} {s t : State} (h : advance inp s = .next t) : Advanced inp s t := by
  unfold advance at h
  split at h
  next r hr =>
    unfold channelAnswer at h
    split at h <;> injection h with h <;> subst h
    next ha => exact .unanswered hr ha
    next ha => exact .answeredOk hr ha
    next ha => exact .answeredError hr ha
  next hr =>
    split at h
    next hp =>
      unfold acceptWord at h
      split at h
      next hw => injection h with h; subst h; exact .noWord ⟨hp, hr⟩ hw
      next w rest hw =>
        unfold runWord at h
        split at h
        next i hd => exact .run ⟨hp, hr⟩ hw hd h
        next e hd => injection h with h; subst h; exact .illegal ⟨hp, hr⟩ hw hd
    next hp =>
      injection h with h
      subst h
      unfold windowStep
      split
      next b bs hw => exact .windowByte hp hr hw
      next hw => exact .windowDone hp hr hw
    next hp => injection h with h; subst h; exact .stage hp hr
    next hp => injection h with h; subst h; exact .arm hp hr
    next hp =>
      unfold waitStep at h
      split at h
      next ha =>
        split at h
        next hm => injection h with h; subst h; exact .finish hp hr ha hm
        next hm =>
          split at h
          next ht =>
            unfold burstMove at h
            split at h
            next w hw => injection h with h; subst h; exact .move hp hr ha hm ht hw
            next => nomatch h
          next ht => injection h with h; subst h; exact .notReady hp hr ha hm (by simpa using ht)
      next ha =>
        split at h
        next hd => injection h with h; subst h; exact .returnIdle hp hr (by simpa using ha) hd
        next hd => injection h with h; subst h; exact .noReport hp hr (by simpa using ha) (by simpa using hd)

/-- The inversion of `step`: a reset, or what the sampled state allows. -/
theorem step_next_cases {s t : State} (h : step s = .next t) :
    (s.sampled.reset = true ∧ t = hardwareReset s.afterSample) ∨
      (s.sampled.reset = false ∧ Advanced s.sampled s.afterSample t) := by
  by_cases hr : s.sampled.reset = true
  · rw [step_reset hr] at h
    injection h with h
    exact Or.inl ⟨hr, h.symm⟩
  · have hr : s.sampled.reset = false := by simpa using hr
    rw [step_no_reset hr] at h
    exact Or.inr ⟨hr, advance_next_cases h⟩

/-- A step of a block that takes a word, for a word that decodes (R150). -/
theorem step_of_takes {s : State} {w : CmdWord} {rest : List CmdWord} (h : Takes s w rest) :
    step s = runWord w (taken s rest) := by
  obtain ⟨⟨hp, hr⟩, hreset, hw⟩ := h
  rw [step_no_reset hreset]
  simp only [advance, State.afterSample_cmdReq, State.afterSample_phase, hp, hr, acceptWord,
    State.afterSample_hostWords, hw]
  rfl

/-- Runs are deterministic. -/
theorem Steps.unique {n : Nat} {s t u : State} (h : Steps n s t) (h' : Steps n s u) : t = u := by
  induction h generalizing u with
  | refl => cases h'; rfl
  | next _ e ih =>
    cases h' with
    | next h1 e1 =>
      have := ih h1
      subst this
      rw [e] at e1
      injection e1

/-- A run split at its first step. -/
theorem Steps.cons {n : Nat} {s t u : State} (e : step s = .next t) (h : Steps n t u) : Steps (n + 1) s u := by
  induction h with
  | refl => exact .next (.refl s) e
  | next _ e' ih => exact .next (ih e) e'

/-- One run after another. -/
theorem Steps.trans {m n : Nat} {s t u : State} (h1 : Steps m s t) (h2 : Steps n t u) : Steps (m + n) s u := by
  induction h2 with
  | refl => exact h1
  | next _ e ih => exact .next (ih h1) e

/-- What a step keeps, a run keeps. -/
theorem Steps.invariant {P : State → Prop} (hP : ∀ s t, P s → step s = .next t → P t) {n : Nat} {s t : State}
    (h : Steps n s t) (hs : P s) : P t := by
  induction h with
  | refl => exact hs
  | next _ e ih => exact hP _ _ (ih hs) e

end Sys2Proof.Machine
end

