-- ==== Sys2Proof/Laws/Routines.lean ====
section
/-! SUPPORT. What the host of Machine/Routines.lean does, one lemma for each of its moves. -/

namespace Sys2Proof.Machine

/-- The response among the events a step has appended. -/
theorem newResponse_append {s t : State} {es : List Event} (h : t.log = s.log ++ es) :
    newResponse s t = (es.filterMap Event.response?).head? := by
  simp [newResponse, h]

/-- An answer is a new response. -/
@[simp] theorem newResponse_respond {s u : State} (h : u.log = s.log) (st : Status) (idx : Nat) (mask : Byte)
    (pix : Bool) : newResponse s (respond st idx mask pix u) = some (responseWord st idx mask pix) := by
  rw [newResponse_append (es := [.rsp (responseWord st idx mask pix)]) (by simp [h])]
  rfl

/-- A step that empties the log gives no response. -/
theorem newResponse_of_log_nil {s t : State} (h : t.log = []) : newResponse s t = none := by simp [newResponse, h]

/-- What the host does after a step that answered. -/
theorem observe_answered {s t : State} {w : CmdWord} (h : newResponse s t = some w) (ok wait : State → HostRun) :
    observe s (.next t) ok wait = if statusField w = Status.ok.code then ok t else .failed w t := by
  simp [observe, h]

/-- What the host does after a step without an answer. -/
theorem observe_unanswered {s t : State} (h : newResponse s t = none) (ok wait : State → HostRun) :
    observe s (.next t) ok wait = wait t := by
  simp [observe, h]

/-- What the host does after a step that ended in a response. -/
theorem observe_respond (s u : State) (h : u.log = s.log) (st : Status) (idx : Nat) (mask : Byte) (pix : Bool)
    (ok wait : State → HostRun) :
    observe s (.next (respond st idx mask pix u)) ok wait =
      if statusField (responseWord st idx mask pix) = Status.ok.code then ok (respond st idx mask pix u)
      else .failed (responseWord st idx mask pix) (respond st idx mask pix u) :=
  observe_answered (newResponse_respond h st idx mask pix) ok wait

/-- What the host does after a fault of the model. -/
@[simp] theorem observe_fault (s : State) (f : Fault) (ok wait : State → HostRun) :
    observe s (.fault f) ok wait = .faulted f := rfl

/-- A host with nothing left to issue has finished. -/
@[simp] theorem runHost_nil (fuel : Nat) (s : State) : runHost fuel [] s = .finished s := rfl

/-- A host issues its commands one by one. -/
@[simp] theorem runHost_cons (fuel : Nat) (i : Instr) (is : List Instr) (s : State) :
    runHost fuel (i :: is) s = runCommand i (runHost fuel is) fuel s := rfl

/-- A command that the block accepts is issued. -/
theorem runCommand_accepts {s : State} (h : s.Accepts) (i : Instr) (ok : State → HostRun) (fuel : Nat) :
    runCommand i ok (fuel + 1) s = observe s (issue i s) ok (awaitResponse ok fuel) := by
  simp [runCommand, h]

/-- A command that the block does not accept yet is held (R186). -/
theorem runCommand_held {s t : State} (h : ¬s.Accepts) (e : step s = .next t) (i : Instr) (ok : State → HostRun)
    (fuel : Nat) : runCommand i ok (fuel + 1) s = runCommand i ok fuel t := by
  simp [runCommand, h, e]

/-- A command without an encoding runs by its own rule on the operands as integers (log entry 21). -/
theorem issue_ill_formed {i : Instr} (h : ¬i.WellFormed) (s : State) : issue i s = exec i s.afterSample := by
  simp [issue, h]

/-- A command with an encoding is handed over as its word, and the block takes that word. -/
theorem issue_well_formed {i : Instr} (h : i.WellFormed) {s : State} (hs : s.Accepts) :
    issue i s = runWord (encode i) s.afterSample := by
  have hT : Takes (s.setHostWords (encode i :: s.hostWords)) (encode i) s.hostWords := ⟨hs.1, hs.2, rfl⟩
  rw [issue, if_pos h, step_of_takes hT]
  rfl

end Sys2Proof.Machine
end

