-- ==== Sys2Proof/Tests/Slice0.lean ====
section
/-! SUPPORT. The model's own tests. The expected values are the vectors of spec/95_test_vectors.md (V<n>, named in each
comment) or words written out from the encodings of spec/30_encoding.md. After them, for each statement with hypotheses,
a concrete state and operands that meet all of them together. -/

namespace Sys2Proof.Tests

open Sys2Proof Sys2Proof.Machine

/-- A created block of the given geometry at the address `0x3C`, nothing drawn, with words and inputs in store. -/
def block (width height : Nat) (words : List CmdWord) (inputs : List Inputs) : State :=
  { State.reset with
    created := true
    cfg := Cfg.ofOperands width height 0x3C#7
    image := [(0, 0x40#8)]
    hostWords := words
    inputs := inputs }

/-- What the platform does in a step in which it answers `ok` and is ready. -/
def prompt : Inputs := ⟨false, some .ok, true⟩

/-- The next state, if there is one. -/
def nextState (o : Host.Outcome State Fault Refusal) : Option State :=
  match o with
  | .next t => some t
  | .fault _ => none
  | .refused _ => none

/-- The fault, if there is one. -/
def faultOf (o : Host.Outcome State Fault Refusal) : Option Fault :=
  match o with
  | .next _ => none
  | .fault f => some f
  | .refused _ => none

/-- The state after a word has been handed over and one step taken. -/
def give (s : State) (w : CmdWord) : Option State := nextState (step (s.withFetchWord 32 w.toNat))

/-- The response to a word, where it is given in one step. -/
def response (s : State) (w : CmdWord) : Option CmdWord :=
  (give s w).bind fun t => t.log.getLast?.bind Event.response?

/-! ### Well-formedness: an ill-formed term for each check -/

theorem test_ill_formed_init_width : ¬(Instr.init 4096 64 0x3C#7).WellFormed := by decide
theorem test_ill_formed_init_height : ¬(Instr.init 128 512 0x3C#7).WellFormed := by decide
theorem test_ill_formed_locate : ¬(Instr.locate 4096 0).WellFormed ∧ ¬(Instr.locate 0 4096).WellFormed := by decide
theorem test_ill_formed_setpix :
    ¬(Instr.setpix 4096 0 true).WellFormed ∧ ¬(Instr.setpix 0 4096 true).WellFormed := by decide
theorem test_ill_formed_getpix : ¬(Instr.getpix 4096 0).WellFormed ∧ ¬(Instr.getpix 0 4096).WellFormed := by decide

/-! ### Decoding: words of the spec and words written out bit by bit -/

/-- V9 and the second word of V15. -/
theorem test_decode_init : decode 0x17840080#32 = .ok (.init 128 64 0x3C#7) ∧
    decode 0x17A20040#32 = .ok (.init 64 32 0x3D#7) ∧
    decode 0b0001_1111111_111111111_111111111111#32 = .ok (.init 4095 511 0x7F#7) := by decide

/-- V2 and V6. -/
theorem test_decode_locate : decode 0x2003F07F#32 = .ok (.locate 127 63) ∧
    decode 0b0010_0000_000000010100_000000000101#32 = .ok (.locate 5 20) := by decide

/-- V25 and V26. -/
theorem test_decode_setpix : decode 0x3103F07F#32 = .ok (.setpix 127 63 true) ∧
    decode 0b0011_000_0_000000010100_000000000101#32 = .ok (.setpix 5 20 false) := by decide

/-- V25 and V26. -/
theorem test_decode_getpix : decode 0x4003F07F#32 = .ok (.getpix 127 63) ∧
    decode 0b0100_0000_000000010101_000000000101#32 = .ok (.getpix 5 21) := by decide

/-- V29. -/
theorem test_decode_fill : decode 0x51000000#32 = .ok (.fill true) ∧ decode 0x50000000#32 = .ok (.fill false) := by decide

/-- V31 and V32. -/
theorem test_decode_sendcmd : decode 0x600000AF#32 = .ok (.sendcmd 0xAF#8) ∧
    decode 0x600000FF#32 = .ok (.sendcmd 0xFF#8) := by decide

/-- V33. -/
theorem test_decode_flush : decode 0x70000000#32 = .ok .flush := by decide

/-- V17: reserved opcodes, with the bounds of their ranges. -/
theorem test_decode_reserved_opcode : decode 0x00000000#32 = .error .reservedOpcode ∧
    decode 0x0FFFFFFF#32 = .error .reservedOpcode ∧ decode 0x80000000#32 = .error .reservedOpcode ∧
    decode 0xFFFFFFFF#32 = .error .reservedOpcode := by decide

/-- V18: reserved bits. -/
theorem test_decode_reserved_bits : decode 0x21000000#32 = .error .reservedBits ∧
    decode 0x41000000#32 = .error .reservedBits ∧ decode 0x22000000#32 = .error .reservedBits ∧
    decode 0x32000000#32 = .error .reservedBits ∧ decode 0x50000001#32 = .error .reservedBits ∧
    decode 0x52000000#32 = .error .reservedBits ∧ decode 0x60000100#32 = .error .reservedBits ∧
    decode 0x70000001#32 = .error .reservedBits ∧ decode 0x78000000#32 = .error .reservedBits := by decide

theorem test_decode_table_word : decodeTableWord 32 0x2003F07F = some (.locate 127 63) ∧
    decodeTableWord 32 0x21000000 = none := by decide

/-! ### One step of each instruction -/

/-- V9: the response and the latches. -/
theorem test_init_latches : (give State.reset 0x17840080#32).map (fun t => (t.log, t.created, t.cfg)) =
    some ([.rsp 0x00000000#32], true, ⟨128, 64, 8, 0x3C#7, 1025⟩) := by decide

/-- V10 to V12 and V14: geometries that are refused, the block as it was, and one that does not fit 1025 bytes. -/
theorem test_init_refused : response State.reset 0x17848080#32 = some 0x50000000#32 ∧
    response State.reset 0x1783C080#32 = some 0x50000000#32 ∧ response State.reset 0x17840000#32 = some 0x50000000#32 ∧
    response State.reset 0x17800080#32 = some 0x50000000#32 ∧ response State.reset 0x17840101#32 = some 0x50000000#32 ∧
    (give State.reset 0x1FFFFFFF#32).map (fun t => { t with log := [] }) = some State.reset ∧
    (give State.reset 0x17840100#32).map (fun t => (t.log, t.allocFailed, t.created)) =
      some ([.rsp 0x10000000#32], true, false) := by decide

/-- V2, V6 and V20: the second index is not in-image. -/
theorem test_locate : response (block 128 64 [] []) 0x2003F07F#32 = some 0x00800400#32 ∧
    response (block 128 64 [] []) 0x20014005#32 = some 0x0010002B#32 ∧
    response (block 128 32 [] []) 0x20000040#32 = some 0x00010201#32 := by decide

/-- V26: clearing one bit leaves its neighbour. V25: the last bit of the image. -/
theorem test_setpix :
    (give { block 128 64 [] [] with image := [(0, 0x40#8), (43, 0x30#8)] } 0x30014005#32).map (·.image) =
      some [(0, 0x40#8), (43, 0x20#8)] ∧
    (give (block 128 64 [] []) 0x3103F07F#32).map (fun t => (t.image, t.log)) =
      some ([(0, 0x40#8), (1024, 0x80#8)], [.rsp 0x00000000#32]) := by decide

/-- V25: a pixel that is set and its neighbour that is not. -/
theorem test_getpix : response { block 128 64 [] [] with image := [(0, 0x40#8), (1024, 0x80#8)] } 0x4003F07F#32 =
      some 0x01000000#32 ∧
    response { block 128 64 [] [] with image := [(0, 0x40#8), (1024, 0x80#8)] } 0x4003E07F#32 = some 0x00000000#32 := by
  decide

/-- V39 and V21: pixels that are not in-range or not in-image. -/
theorem test_pixel_faults :
    faultOf (exec (.setpix 128 0 true) (block 128 64 [] [])) = some .pixelOutOfRange ∧
    faultOf (exec (.locate 0 64) (block 128 64 [] [])) = some .pixelOutOfRange ∧
    faultOf (exec (.setpix 64 0 true) (block 128 32 [] [])) = some .pixelNotInImage ∧
    nextState (exec (.setpix 63 31 true) (block 128 32 [] [])) ≠ none := by decide

/-- V23: FILL of the smallest block. -/
theorem test_fill : (give (block 1 8 [] []) 0x51000000#32).map (·.image) = some [(0, 0x40#8), (1, 0xFF#8)] := by decide

/-- V22: FILL of a geometry that is not fully addressable. -/
theorem test_fill_faults : faultOf (exec (.fill true) (block 4 16 [] [])) = some .pixelNotInImage := by decide

/-- V31: the request is one frame `0x80, 0xAF` and nothing is logged before the channel returns. -/
theorem test_sendcmd_requests : (give (block 128 64 [] []) 0x600000AF#32).map (fun t => (t.cmdReq, t.log)) =
    some (some ⟨0x3C#7, 0x80#8, 0xAF#8⟩, []) := by decide

/-- V31: the channel returns `ok` or `error`. -/
theorem test_sendcmd_returns :
    (nextState (step { block 128 64 [] [prompt] with cmdReq := some ⟨0x3C#7, 0x80#8, 0xAF#8⟩ })).map (·.log) =
      some [.cmd 0x3C#7 0x80#8 0xAF#8 .ok, .rsp 0x00000000#32] ∧
    (nextState (step { block 128 64 [] [⟨false, some .error, true⟩] with
      cmdReq := some ⟨0x3C#7, 0x80#8, 0xAF#8⟩ })).map (·.log) =
      some [.cmd 0x3C#7 0x80#8 0xAF#8 .error, .rsp 0x20000000#32] := by decide

/-- V33: the six bytes of the address window of a 2 by 64 block, the first of them asked for. -/
theorem test_flush_window : (give (block 2 64 [] []) 0x70000000#32).map (fun t => (t.phase, t.cmdReq, t.window)) =
    some (.addressWindowSet, some ⟨0x3C#7, 0x80#8, 0x21#8⟩, [0x00#8, 0x01#8, 0x22#8, 0x00#8, 0x07#8]) := by decide

/-- V23: the staged frame of a filled 1 by 8 block, and V36: another word width and marker. -/
theorem test_flush_stages :
    (nextState (step { block 1 8 [] [] with image := [(0, 0x40#8), (1, 0xFF#8)], phase := .staged })).map (·.staging) =
      some [0x0040, 0x02FF] ∧
    (nextState (step { block 1 8 [] [] with
      params := ⟨9, 8, [], [], 2, 0⟩, image := [(0, 0x40#8), (1, 0x80#8)], phase := .staged })).map (·.staging) =
      some [0x040, 0x180] := by decide

/-- V49: nothing survives a reset but the parameters and what is outside. -/
theorem test_reset_step : nextState (step { block 1 8 [] [⟨true, none, false⟩] with phase := .completed }) =
    some State.reset := by decide

/-! ### The host's routines -/

/-- V45: the glyph index. -/
theorem test_glyph_index : [65, 32, 126, 31, 127, 200].map glyphIndex = [264, 0, 752, 0, 0, 0] := by decide

/-- V47: a string that wraps at the width. -/
theorem test_string_cells : (stringCells 128 64 [1, 2, 3, 4, 5] 100 0).map (fun k => (k.x, k.y)) =
    [(100, 0), (108, 0), (116, 0), (0, 8), (8, 8)] := by decide

/-- V44: the interior of a filled rectangle. -/
theorem test_rect_interior : interiorPixels 1 2 4 3 = [(3, 2), (4, 2)] := by decide

/-- Commands whose operands fit no word: R75's fault and `BAD_GEOMETRY` (R81, U7), never the operand cut to its field. -/
theorem test_host_oversized :
    runHost 1 [.setpix 4096 0 true] (block 128 64 [] []) = .faulted .pixelOutOfRange ∧
    runHost 1 [.init 128 576 0x3C#7] State.reset =
      .failed 0x50000000#32 { State.reset with log := [.rsp 0x50000000#32] } := by decide

/-- A command held over a reset is answered `NOT_CREATED` (R180, R186), and a reset cuts off a SENDCMD in progress (R181),
whatever was in the log before. -/
theorem test_host_reset :
    runHost 2 [.setpix 0 0 true]
      { block 1 8 [] [⟨true, none, false⟩] with phase := .staged, log := [.rsp 0#32, .rsp 0#32] } =
      .failed 0x30000000#32 { State.reset with log := [.rsp 0x30000000#32] } ∧
    runHost 2 [.sendcmd 0xAF#8] (block 1 8 [] [Inputs.quiet, ⟨true, none, false⟩]) = .cutOff State.reset := by decide

/-! ### Witnesses of the statements' hypotheses -/

theorem block_inv {width height : Nat} {words : List CmdWord} {inputs : List Inputs} (hg : GeometryOk width height)
    (hl : imageLenOf width height ≤ 1025) : Inv (block width height words inputs) where
  params := show Config.recommended.Legal by decide
  canonical := show Memory.wf [(0, 0x40#8)] by decide
  capacity := show ∀ c ∈ [(0, 0x40#8)], c.1 < 1025 by decide
  latched _ := ⟨hg, rfl, rfl, hl⟩
  prefixByte _ := rfl
  fatal := by nofun
  busy _ := rfl
  request := by nofun
  phases := ⟨rfl, rfl, rfl⟩

/-- DecodeOfEncode, OpcodeOfEncoding: every field at its largest value. -/
theorem witness_DecodeOfEncode : (Instr.init 4095 511 0x7F#7).WellFormed ∧ (Instr.locate 4095 4095).WellFormed ∧
    (Instr.setpix 4095 4095 true).WellFormed ∧ (Instr.getpix 4095 4095).WellFormed ∧ (Instr.fill true).WellFormed ∧
    (Instr.sendcmd 0xFF#8).WellFormed ∧ Instr.flush.WellFormed := by decide

theorem witness_EncodeOfDecode : decode 0x31FFFFFF#32 = .ok (.setpix 4095 4095 true) := by decide

/-- Every row of the map is selected by some word, and some word selects none. -/
theorem witness_OpcodeMapSelects : (∀ r ∈ opcodeMap, r.Selects r.matchBits) ∧ (∀ r ∈ opcodeMap, ¬r.Selects 0#32) ∧
    decode 0x10000000#32 = .ok (.init 0 0 0#7) := by decide

theorem witness_IllegalWordAnswered : Takes (block 1 8 [0x21000000#32] []) 0x21000000#32 [] ∧
    (block 1 8 [0x21000000#32] []).allocFailed = false ∧ IllegalBits 0x21000000#32 :=
  ⟨by decide, rfl, by unfold IllegalBits; decide⟩

theorem witness_StepRunsDecoded : Takes (block 1 8 [0x70000000#32] []) 0x70000000#32 [] ∧
    decode 0x70000000#32 = .ok .flush := by decide

theorem witness_FetchWordIsTaken : (Instr.init 4095 511 0x7F#7).WellFormed := by decide

/-- WordHeldWhileBusy and WaitsForWord: a block that is busy, one that takes a word, and one that waits for a word. -/
theorem witness_WordHeldWhileBusy :
    (¬State.Ready { block 1 8 [0#32] [] with phase := .staged } ∧
      nextState (step { block 1 8 [0#32] [] with phase := .staged }) ≠ none) ∧
    ((block 1 8 [0#32] []).Ready ∧ nextState (step (block 1 8 [0#32] [])) ≠ none) ∧
    (block 1 8 [] []).Ready ∧ (block 1 8 [] []).sampled.reset = false ∧ (block 1 8 [] []).hostWords = [] := by decide

/-- Each check of R167 on a word, the case that none fires, and a bus write that returns `error`. -/
theorem witness_FirstCheckDecides :
    firstCheck { block 1 8 [] [] with allocFailed := true } 0x70000000#32 = some .allocFail ∧
    firstCheck (block 1 8 [] []) 0x00000000#32 = some .illegalCmd ∧
    firstCheck State.reset 0x70000000#32 = some .notCreated ∧
    firstCheck (block 1 8 [] []) 0x17848080#32 = some .alreadyCreated ∧
    firstCheck State.reset 0x17848080#32 = some .badGeometry ∧
    firstCheck State.reset 0x17840100#32 = some .allocFail ∧
    firstCheck (block 1 8 [] []) 0x70000000#32 = none ∧
    Takes (block 1 8 [0x70000000#32] []) 0x70000000#32 [] ∧
    State.sampled { block 1 8 [] [⟨false, some .error, true⟩] with cmdReq := some ⟨0#7, 0x80#8, 0#8⟩ } =
      ⟨false, some .error, true⟩ := by decide

theorem witness_NotCreatedRefused : State.reset.allocFailed = false ∧ State.reset.created = false ∧
    ∀ w h a, Instr.locate 0 0 ≠ .init w h a := ⟨rfl, rfl, by nofun⟩

theorem witness_LocateAnswers : (block 128 32 [] []).allocFailed = false ∧ (block 128 32 [] []).created = true ∧
    (Instr.locate 127 31).WellFormed ∧ 127 < (block 128 32 [] []).cfg.width ∧ 31 < (block 128 32 [] []).cfg.height := by
  decide

theorem witness_ResponseFieldsFit : (Instr.locate 4095 4095).WellFormed ∧ (pixelMask 7).getLsbD 7 = true := by decide

/-- The bounds of R72 are reached in both of their clauses. -/
theorem witness_LocateRange : GeometryOk 256 64 ∧ byteIndex 0 7 = 1 ∧ byteIndex 255 56 = 64 / 8 + 8 * (256 - 1) ∧
    byteIndex 255 55 ≠ 64 / 8 + 8 * (256 - 1) := by decide

theorem witness_LocateInjective : 63 < 8 * 8 ∧ byteIndex 127 63 = byteIndex 127 63 ∧
    bitPosition 63 = bitPosition 63 ∧ 8 < 9 := by decide

theorem witness_FullyAddressableExactly : GeometryOk 1 8 ∧ GeometryOk 128 32 ∧ GeometryOk 256 64 ∧ 2048 ≤ 8 * 256 := by
  decide

theorem witness_LocateInverse : byteIndex 127 63 = 1024 ∧ bitPosition 63 = 7 ∧ 127 = (1024 - 1) / 8 ∧
    63 = 8 * ((1024 - 1) % 8) + 7 := by decide

theorem witness_OutOfRangeFaults : (block 128 64 [] []).allocFailed = false ∧ (block 128 64 [] []).created = true ∧
    ((block 128 64 [] []).cfg.width ≤ 128 ∨ (block 128 64 [] []).cfg.height ≤ 0) ∧
    ((block 128 64 [] []).cfg.width ≤ 0 ∨ (block 128 64 [] []).cfg.height ≤ 64) := by decide

/-- One clause each, the last an INIT that fits exactly. -/
theorem witness_InitCreates : State.reset.image.wf ∧ State.reset.allocFailed = false ∧ State.reset.created = false ∧
    ¬GeometryOk 128 72 ∧ (GeometryOk 129 64 ∧ State.reset.params.maxImageLen < 64 / 8 * 129 + 1) ∧
    GeometryOk 128 64 ∧ 64 / 8 * 128 + 1 ≤ State.reset.params.maxImageLen := by decide

theorem witness_InitTwiceRefused : (block 1 8 [] []).allocFailed = false ∧ (block 1 8 [] []).created = true := by decide

theorem witness_InitBadGeometry : State.reset.allocFailed = false ∧ State.reset.created = false ∧
    (257 = 0 ∨ 256 < 257 ∨ 64 % 8 ≠ 0 ∨ 64 = 0 ∨ 64 < 64) := by decide

/-- One clause each: no fit, a word while failed, a step while failed, a reset. -/
theorem witness_AllocationFailureIsFatal :
    (State.reset.created = false ∧ GeometryOk 129 64 ∧ State.reset.params.maxImageLen < 64 / 8 * 129 + 1) ∧
    Takes { State.reset with allocFailed := true, hostWords := [0#32] } 0#32 [] ∧
    nextState (step { State.reset with allocFailed := true, hostWords := [0#32] }) ≠ none ∧
    State.sampled { State.reset with inputs := [⟨true, none, false⟩] } = ⟨true, none, false⟩ := by decide

/-- SETPIX, GETPIX and GetpixAfterSetpix: the last pixel of the image, and another one. -/
theorem witness_SetpixGetpix : (block 128 64 [] []).image.wf ∧ (block 128 64 [] []).allocFailed = false ∧
    (block 128 64 [] []).created = true ∧ (block 128 64 [] []).cfg.height ≤ 64 ∧
    (block 128 64 [] []).cfg.InRange 127 63 ∧ (block 128 64 [] []).cfg.InImage (byteIndex 127 63) ∧
    (block 128 64 [] []).cfg.InRange 127 62 ∧ (block 128 64 [] []).cfg.InImage (byteIndex 127 62) := by decide

theorem witness_SetpixIdempotent : (block 1 8 [] []).image.wf ∧
    ((block 1 8 [] []).image.read (7 / 8 + 0 * 8 + 1)).getLsbD (7 % 8) = false ∧
    nextState (exec (.setpix 0 7 false) (block 1 8 [] [])) ≠ none := by decide

theorem witness_NotInImageFaults : (block 128 32 [] []).allocFailed = false ∧ (block 128 32 [] []).created = true ∧
    64 < (block 128 32 [] []).cfg.width ∧ 0 < (block 128 32 [] []).cfg.height ∧
    (block 128 32 [] []).cfg.imageLen ≤ 0 / 8 + 64 * 8 + 1 := by decide

theorem witness_FillSetsEveryPixel : (block 1 64 [] []).image.wf ∧ (block 1 64 [] []).allocFailed = false ∧
    (block 1 64 [] []).created = true ∧ (block 1 64 [] []).cfg.FullyAddressable :=
  ⟨by decide, rfl, rfl, fun x y h => by
    have h1 : x < 1 := h.1
    have h2 : y < 64 := h.2
    show y / 8 + x * 8 + 1 < 9
    omega⟩

theorem witness_FillWholeBytes : (block 128 64 [] []).image.wf ∧ (block 128 64 [] []).allocFailed = false ∧
    (block 128 64 [] []).created = true ∧ (block 128 64 [] []).cfg = Cfg.ofOperands 128 64 0x3C#7 ∧
    1024 < (block 128 64 [] []).cfg.imageLen := by decide

/-- Another order than the model's. -/
theorem witness_FillOrderIrrelevant : Memory.wf [(0, 0x40#8)] ∧
    (pixelDomain 1 8).reverse.Perm (pixelDomain 1 8) ∧ (pixelDomain 1 8).reverse ≠ pixelDomain 1 8 :=
  ⟨by decide, List.reverse_perm _, by decide⟩

theorem witness_SendcmdRequests : (block 1 8 [] []).allocFailed = false ∧ (block 1 8 [] []).created = true := by decide

theorem witness_SendcmdInTwoSteps :
    Takes (block 1 8 [encode (.sendcmd 0xAF#8)] [Inputs.quiet, prompt]) (encode (.sendcmd 0xAF#8)) [] ∧
    (block 1 8 [encode (.sendcmd 0xAF#8)] [Inputs.quiet, prompt]).inputs = [Inputs.quiet, prompt] ∧
    prompt.reset = false ∧ prompt.cmdAnswer = some .ok ∧
    (block 1 8 [encode (.sendcmd 0xAF#8)] [Inputs.quiet, prompt]).allocFailed = false ∧
    (block 1 8 [encode (.sendcmd 0xAF#8)] [Inputs.quiet, prompt]).created = true ∧
    (block 1 8 [encode (.sendcmd 0xAF#8)] [Inputs.quiet, prompt]).window = [] := by decide

theorem witness_UnansweredWriteBlocks :
    State.cmdReq { block 1 8 [] [Inputs.quiet] with cmdReq := some ⟨0x3C#7, 0x80#8, 0#8⟩ } =
      some ⟨0x3C#7, 0x80#8, 0#8⟩ ∧
    ∀ inp ∈ [Inputs.quiet], inp.reset = false ∧ inp.cmdAnswer = none := by decide

theorem witness_FlushEntersWindowPhase : (block 128 64 [] []).allocFailed = false ∧
    (block 128 64 [] []).created = true ∧
    (block 128 64 [] []).cfg.Latched (block 128 64 [] []).params.maxImageLen :=
  ⟨rfl, rfl, by decide, rfl, rfl, by decide⟩

/-- A 1 by 8 block that sends its address window. -/
def windowing (window : List Byte) (req : Option CmdRequest) (inputs : List Inputs) : State :=
  { block 1 8 [] inputs with phase := .addressWindowSet, window := window, cmdReq := req }

/-- One clause each: an answer with the last byte still to send, an answer to the last byte, no answer, the invariant. -/
theorem witness_WindowBytesSentInOrder :
    let r : CmdRequest := ⟨0x3C#7, 0x80#8, 0x00#8⟩
    let next := windowing [0x07#8] (some r) [prompt]
    let last := windowing [] (some r) [prompt]
    let wait := windowing [] (some r) []
    (next.phase = .addressWindowSet ∧ next.sampled.reset = false ∧ next.cmdReq = some r ∧
      next.sampled.cmdAnswer = some .ok ∧ next.window = [0x07#8]) ∧
    (last.phase = .addressWindowSet ∧ last.sampled.reset = false ∧ last.cmdReq = some r ∧
      last.sampled.cmdAnswer = some .ok ∧ last.window = []) ∧
    (wait.phase = .addressWindowSet ∧ wait.sampled.reset = false ∧ wait.cmdReq = some r ∧
      wait.sampled.cmdAnswer = none) ∧ Inv wait :=
  ⟨by decide, by decide, by decide, by decide, by decide, by decide, fun _ => ⟨by decide, rfl, rfl, by decide⟩,
    fun _ => rfl, by nofun, fun _ => rfl, fun _ h => by cases h; exact ⟨rfl, rfl⟩, ⟨rfl, rfl, by decide⟩⟩

theorem witness_BusErrorEndsFlush :
    let s := windowing [0x00#8] (some ⟨0x3C#7, 0x80#8, 0x21#8⟩) [⟨false, some .error, false⟩]
    s.phase = .addressWindowSet ∧ s.sampled.reset = false ∧ s.cmdReq = some ⟨0x3C#7, 0x80#8, 0x21#8⟩ ∧
      s.sampled.cmdAnswer = some .error := by decide

theorem witness_StagedFrame :
    let s : State := { block 1 8 [] [] with phase := .staged }
    s.phase = .staged ∧ s.cmdReq = none ∧ s.sampled.reset = false ∧ s.params.Legal ∧ 1 ≤ s.cfg.imageLen := by decide

theorem witness_ArmConfiguresBurst :
    let s : State := { block 1 8 [] [] with phase := .armed, staging := [0x40, 0x200] }
    s.phase = .armed ∧ s.cmdReq = none ∧ s.sampled.reset = false := by decide

/-- A 1 by 8 block in phase Completed: words to move, all moved, reported. -/
def bursting (pos remaining : Nat) (active : Bool) (inputs : List Inputs) : State :=
  { block 1 8 [] inputs with
    phase := .completed
    staging := [0x40, 0x200]
    bc := ⟨0, true, 0, false, 16, .txReady, 2, active, pos, remaining, !active⟩ }

theorem witness_BurstSteps :
    let s := bursting 1 1 true [prompt]
    (s.phase = .completed ∧ s.cmdReq = none ∧ s.sampled.reset = false ∧ s.bc.active = true ∧ 0 < s.bc.remaining ∧
        s.sampled.txReady = true ∧ s.staging[s.bc.src + s.bc.pos]? = some 0x200) ∧
    (bursting 1 1 true []).sampled.txReady = false ∧
    (bursting 2 0 true []).bc.active = true ∧ (bursting 2 0 true []).bc.remaining = 0 := by decide

/-- WordHeldWhileBusy and FirstCheckDecides: a busy block whose step answers, here with `OK`. -/
theorem witness_answer_of_busy_block : ¬(bursting 2 0 false []).Ready ∧ (bursting 2 0 false []).sampled.reset = false ∧
    (nextState (step (bursting 2 0 false []))).map (fun t => (decide t.Ready, t.log.getLast?)) =
      some (true, some (.rsp 0x00000000#32)) := by decide

theorem witness_CompletionReturnsToIdle :
    let s := bursting 2 0 false []
    s.phase = .completed ∧ s.cmdReq = none ∧ s.sampled.reset = false ∧ s.bc.active = false ∧ s.bc.done = true := by decide

theorem witness_StalledDeviceBlocks :
    let s := bursting 1 1 true [⟨false, some .ok, false⟩]
    s.phase = .completed ∧ s.cmdReq = none ∧ s.bc.active = true ∧ 0 < s.bc.remaining ∧
      ∀ inp ∈ s.inputs, inp.reset = false ∧ inp.txReady = false := by decide

/-- The steps of a run, as a function. -/
def run : Nat → State → Option State
  | 0, s => some s
  | n + 1, s => (nextState (step s)).bind (run n)

theorem steps_of_run {n : Nat} {s t : State} (h : run n s = some t) : Steps n s t := by
  induction n generalizing s with
  | zero => cases h; exact .refl _
  | succ n ih =>
    unfold run at h
    cases e : step s with
    | next u => rw [e] at h; exact Steps.cons e (ih h)
    | fault f => rw [e] at h; cases h
    | refused r => rw [e] at h; cases h

/-- A block that flushes, on a platform that is always prompt. -/
def flushing (inputs : List Inputs) : State := block 1 8 [encode .flush] inputs

/-- Both ways a FLUSH ends: after its frame, and at its first bus write. -/
theorem witness_FlushLogsItsFrame :
    (Inv (flushing (List.replicate 13 prompt)) ∧ NoReset (flushing (List.replicate 13 prompt)) ∧
      ∃ t, Steps 13 (flushing (List.replicate 13 prompt)) t ∧ t.Ready ∧
        t.log = okFlushLog (flushing (List.replicate 13 prompt))) ∧
    ∃ t, Steps 2 (flushing [prompt, ⟨false, some .error, true⟩]) t ∧ t.Ready ∧
      t.log = failedFlushLog (flushing []) [] 0x21#8 :=
  ⟨⟨block_inv (by decide) (by decide), by decide, _, steps_of_run (Option.some_get (by decide)).symm, by decide,
    by decide⟩, _, steps_of_run (Option.some_get (by decide)).symm, by decide, by decide⟩

theorem witness_FlushCompletes : Inv (flushing (List.replicate 13 prompt)) ∧
    (flushing (List.replicate 13 prompt)).Ready ∧ (flushing (List.replicate 13 prompt)).created = true ∧
    (addressWindow Config.recommended (flushing []).cfg).length + (flushing []).cfg.imageLen + 5 = 13 ∧
    prompt = ⟨false, some .ok, true⟩ := ⟨block_inv (by decide) (by decide), by decide, by decide, by decide, by decide⟩

theorem witness_ResetMeetsInvariant : Config.Params.Legal ⟨9, 8, [], [], 2, 0⟩ := by decide

/-- StepKeepsInvariant, OnlyPixelFaults, PhaseMovesInOrder, FrameStableInFlight, LatchesConstant, PrefixNeverChanges,
ResponsesEndOperations: a created block that meets the invariant and answers a next state. -/
theorem witness_created_step : Inv (flushing []) ∧ (flushing []).sampled.reset = false ∧
    (flushing []).created = true ∧ nextState (step (flushing [])) ≠ none :=
  ⟨block_inv (by decide) (by decide), by decide, by decide, by decide⟩

/-- PhaseMovesInOrder, FrameStableInFlight and OnlyPixelFaults in phase Completed, with the burst running: the state is
reached, so the invariant holds of it. -/
theorem witness_running_step : Inv (bursting 1 1 true []) ∧ (bursting 1 1 true []).phase ≠ .idle ∧
    (bursting 1 1 true []).bc.active = true ∧ nextState (step (bursting 1 1 true [])) ≠ none :=
  ⟨⟨by decide, by decide, by decide, fun _ => ⟨by decide, rfl, rfl, by decide⟩, fun _ => rfl, by nofun, fun _ => rfl,
    by nofun, ⟨by decide, ⟨rfl, rfl, rfl, rfl, rfl, rfl, rfl, rfl, rfl, by nofun⟩, rfl, rfl⟩⟩, by decide, by decide,
    by decide⟩

/-- A fault that OnlyPixelFaults speaks of. -/
theorem witness_OnlyPixelFaults : Inv (block 1 8 [0x20000001#32] []) ∧
    faultOf (step (block 1 8 [0x20000001#32] [])) = some .pixelOutOfRange :=
  ⟨block_inv (by decide) (by decide), by decide⟩

theorem witness_HostDutySuffices : (block 1 8 [] []).created = true ∧ HostDuty (block 1 8 [] []).cfg (.setpix 0 7 true) :=
  ⟨rfl, show Cfg.InRange _ 0 7 ∧ Cfg.InImage _ (byteIndex 0 7) by decide⟩

/-- The second clause of PhaseMovesInOrder. -/
theorem witness_exec_next : nextState (exec (.sendcmd 0#8) (block 1 8 [] [])) ≠ none ∧
    Instr.sendcmd 0#8 ≠ .flush := by decide

theorem witness_HardwareReset : (bursting 1 1 true [⟨true, none, false⟩]).sampled.reset = true := by decide

theorem witness_LogKeepsItsForm : Inv (flushing []) ∧ LogForm (flushing []) ∧ nextState (step (flushing [])) ≠ none :=
  ⟨block_inv (by decide) (by decide), by nofun, by decide⟩

/-- A block that has gap bytes: 4 by 16. -/
theorem witness_GapBytesStayZero : Inv (block 4 16 [0x31000000#32] []) ∧ GapBytesZero (block 4 16 [0x31000000#32] []) ∧
    (block 4 16 [] []).cfg.pages ≤ (3 - 1) % 8 ∧ nextState (step (block 4 16 [0x31000000#32] [])) ≠ none :=
  ⟨block_inv (by decide) (by decide), fun _ i h1 _ _ => by
    obtain ⟨n, rfl⟩ : ∃ n, i = n + 1 := ⟨i - 1, by omega⟩
    rfl, by decide, by decide⟩

theorem witness_RoutinesAgree : 0 ≤ 127 ∧ 1 ≤ 3 ∧ (3, 2) ∈ interiorPixels 1 2 4 3 := by decide

theorem witness_StringStaysOnDisplay : 8 ≤ 128 ∧ 120 + 8 ≤ 128 ∧ 56 + 8 ≤ 64 ∧ [65] ≠ [] := by decide

theorem witness_PlotRunsToItsEnd : Inv (block 128 64 [] []) ∧ (block 128 64 [] []).Ready ∧
    (block 128 64 [] []).created = true ∧ NoReset (block 128 64 [] []) ∧
    ∀ p ∈ [(0, 0), (127, 63)], (block 128 64 [] []).cfg.InRange p.1 p.2 ∧
      (block 128 64 [] []).cfg.InImage (byteIndex p.1 p.2) :=
  ⟨block_inv (by decide) (by decide), by decide, by decide, by decide, by decide⟩

/-- One clause each: a ready block; one that is created, and one that is not; a run that fails; a reset before and after
the command is accepted. -/
theorem witness_HostIssuesEveryCommand : (Inv (block 128 64 [] []) ∧ (block 128 64 [] []).created = true ∧
      (block 128 64 [] []).Accepts ∧ (4096 ≤ 4096 ∨ 4096 ≤ 0)) ∧
    (State.reset.allocFailed = false ∧ State.reset.created = false ∧ State.reset.Accepts ∧ (4096 ≤ 0 ∨ 512 ≤ 512)) ∧
    (∃ t, runHost 1 [.flush] State.reset = .failed 0x30000000#32 t) ∧
    ((block 1 8 [] [⟨true, none, false⟩, prompt]).inputs = ⟨true, none, false⟩ :: prompt :: [] ∧ prompt.reset = false ∧
      ∀ w h d, Instr.flush ≠ .init w h d) ∧
    (block 1 8 [] [⟨true, none, false⟩]).sampled.reset = true :=
  ⟨⟨block_inv (by decide) (by decide), by decide, by decide, by decide⟩, by decide,
    ⟨{ State.reset with log := [.rsp 0x30000000#32] }, by decide⟩, ⟨rfl, rfl, by nofun⟩, rfl⟩

end Sys2Proof.Tests
end

section
/-! PROOF. The parameters and, on a created block, the latches of INIT over every step. -/

namespace Sys2Proof.Machine

/-- An operation that runs on a created block writes neither `created` nor the latches: only INIT does (R13, R14). -/
theorem Done.keeps_latches {i : Instr} {s t : State} (h : Done s i t) : t.created = s.created ∧ t.cfg = s.cfg := by
  cases h <;> simp

/-- On a created block no instruction changes `created` or the latches: INIT is refused there, before it writes
anything (R13, R14). -/
theorem exec_keeps_latches {i : Instr} {s t : State} (hc : s.created = true) (h : exec i s = .next t) :
    t.created = true ∧ t.cfg = s.cfg := by
  rcases exec_next_cases h with ⟨st, _, rfl⟩ | ⟨_, _, _, _, _, hn, _⟩ | ⟨_, _, hd⟩
  · simp [hc]
  · simp [hc] at hn
  · obtain ⟨hcreated, hcfg⟩ := hd.keeps_latches
    exact ⟨hcreated.trans hc, hcfg⟩

/-- No step without a reset changes the parameters (R3). -/
theorem Advanced.keeps_params {inp : Inputs} {s t : State} (h : Advanced inp s t) : t.params = s.params := by
  cases h with
  | run _ _ _ he => exact (exec_unchanged he).1
  | _ => simp

/-- On a created block no step without a reset changes `created` or the latches: an instruction keeps them, and the
agents of the block never write them (R13, R14). -/
theorem Advanced.keeps_latches {inp : Inputs} {s t : State} (hc : s.created = true) (h : Advanced inp s t) :
    t.created = true ∧ t.cfg = s.cfg := by
  cases h with
  | run _ _ _ he => simpa using exec_keeps_latches (by simpa using hc) he
  | _ => simp [hc]

/-- Settles O50, by the inversion of `step`: a reset puts the parameters back as they were, and any other step keeps
them and the latches of a created block. -/
theorem latchesConstant : Obligations.LatchesConstant := by
  intro s t h
  rcases step_next_cases h with ⟨hreset, rfl⟩ | ⟨_, hadv⟩
  · exact ⟨by simp, by simp [hreset]⟩
  · exact ⟨hadv.keeps_params, fun _ hc => by simpa using hadv.keeps_latches (by simpa using hc)⟩

end Sys2Proof.Machine
end

section
/-! PROOF. Every step keeps the invariant: what each move needs of the state it starts from, and the step lemma assembled
from these. -/

namespace Sys2Proof.Machine

section
variable {s : State}

/-! What `PhaseInv` says in each phase (R17, R18, R25, R112, R116). -/

theorem phaseInv_idle_iff (h : s.phase = .idle) :
    PhaseInv s ↔ s.staging = [] ∧ s.window = [] ∧ s.bc.active = false := by simp [PhaseInv, h]

theorem phaseInv_addressWindowSet_iff (h : s.phase = .addressWindowSet) :
    PhaseInv s ↔ s.staging = [] ∧ s.bc.active = false ∧ s.cmdReq ≠ none := by simp [PhaseInv, h]

theorem phaseInv_staged_iff (h : s.phase = .staged) :
    PhaseInv s ↔ s.staging = [] ∧ s.bc.active = false ∧ s.window = [] ∧ s.cmdReq = none := by simp [PhaseInv, h]

theorem phaseInv_armed_iff (h : s.phase = .armed) :
    PhaseInv s ↔ s.staging = frameOf s ∧ s.bc.active = false ∧ s.window = [] ∧ s.cmdReq = none := by
  simp [PhaseInv, h]

theorem phaseInv_completed_iff (h : s.phase = .completed) :
    PhaseInv s ↔ s.staging = frameOf s ∧ s.bc.Running s.params s.cfg ∧ s.window = [] ∧ s.cmdReq = none := by
  simp [PhaseInv, h]

/-- A bus write is outstanding only for SENDCMD and while the address window is sent, and then no staging word has a
value and no transfer runs (R101, R112). -/
theorem Inv.phase_of_request {r : CmdRequest} (h : Inv s) (hr : s.cmdReq = some r) :
    (s.phase = .idle ∨ s.phase = .addressWindowSet) ∧ s.staging = [] ∧ s.bc.active = false := by
  have hph := h.phases
  cases hp : s.phase with
  | idle =>
    obtain ⟨hst, _, hact⟩ := (phaseInv_idle_iff hp).1 hph
    exact ⟨.inl rfl, hst, hact⟩
  | addressWindowSet =>
    obtain ⟨hst, hact, _⟩ := (phaseInv_addressWindowSet_iff hp).1 hph
    exact ⟨.inr rfl, hst, hact⟩
  | staged => simp [(phaseInv_staged_iff hp).1 hph] at hr
  | armed => simp [(phaseInv_armed_iff hp).1 hph] at hr
  | completed => simp [(phaseInv_completed_iff hp).1 hph] at hr

/-- A block that is not created has no operation in progress (R163). -/
theorem Inv.ready_of_not_created (h : Inv s) (hc : s.created = false) : s.Ready := by
  by_contra hn
  have := h.busy (by simpa [State.Ready, Classical.or_iff_not_imp_left] using hn)
  simp [hc] at this

/-- The invariant sees neither the log nor what the outside has in store. -/
theorem Inv.congr {t : State} (h : Inv s)
    (e : { t with log := s.log, hostWords := s.hostWords, inputs := s.inputs } = s) : Inv t := by
  rw [← e] at h
  exact ⟨h.params, h.canonical, h.capacity, h.latched, h.prefixByte, h.fatal, h.busy, h.request, h.phases⟩

end

/-! ### The image memory -/

/-- What the invariant says of the image memory of a created block (R15, R16, R82, R192). -/
structure Memory.Stored (m : Memory) (cap : Nat) : Prop where
  canonical : m.wf
  capacity : ∀ c ∈ m, c.1 < cap
  prefixByte : m.read 0 = Config.ctrlData

section
variable {m m' : Memory} {cap len : Nat}

/-- A write inside the capacity keeps every index inside it. -/
theorem Memory.capacity_write {i : Nat} {v : Byte} (h : ∀ c ∈ m, c.1 < cap) (hi : i < cap) :
    ∀ c ∈ m.write i v, c.1 < cap := by
  intro c hc
  rcases Memory.mem_write hc with hc | ⟨rfl, _⟩
  · exact h c hc
  · exact hi

/-- A pixel write never touches `image[0]`: no index of the mapping is 0 (R71, R192). -/
theorem Memory.Stored.writePixel {x y : Nat} {v : Bool} (h : m.Stored cap) (hi : byteIndex x y < cap) :
    (writePixel m x y v).Stored cap where
  canonical := wf_writePixel h.canonical x y v
  capacity := Memory.capacity_write h.capacity hi
  prefixByte := by
    rw [read_writePixel_other h.canonical x y v (by simp [byteIndex])]
    exact h.prefixByte

/-- FILL writes pixels alone (R86). -/
theorem Memory.Stored.fillPixels {v : Bool} {l : List (Nat × Nat)} (h : m.Stored cap) (hlen : len ≤ cap)
    (hf : fillPixels len v l m = some m') : m'.Stored cap := by
  induction l generalizing m with
  | nil =>
    cases hf
    exact h
  | cons p l ih =>
    obtain ⟨x, y⟩ := p
    simp only [Machine.fillPixels] at hf
    split at hf
    next hi => exact ih (h.writePixel (hi.trans_le hlen)) hf
    next => nomatch hf

/-- The image INIT leaves (R80). -/
theorem Memory.stored_clearedImage (hwf : m.wf) (h : ∀ c ∈ m, c.1 < cap) (hcap : 0 < cap) :
    (clearedImage m len).Stored cap where
  canonical := wf_clearedImage hwf len
  capacity := Memory.capacity_write (fun c hc => h c (List.mem_of_mem_filter hc)) hcap
  prefixByte := by simp [read_clearedImage hwf]

end

/-! ### The moves of the block -/

/-- `t` has the parameters, the latches and the image of `s`. -/
structure KeepsImage (s t : State) : Prop where
  params : t.params = s.params
  created : t.created = s.created
  allocFailed : t.allocFailed = s.allocFailed
  cfg : t.cfg = s.cfg
  image : t.image = s.image

section
variable {s t : State}

/-- A move of SENDCMD or FLUSH: with the image and the latches kept, the invariant asks for the bus write and the phase
alone. -/
theorem Inv.move (h : Inv s) (hc : s.created = true) (k : KeepsImage s t)
    (hreq : ∀ r, t.cmdReq = some r → r.addr = t.cfg.devAddr ∧ r.b0 = Config.ctrlCmd) (hph : PhaseInv t) : Inv t where
  params := k.params ▸ h.params
  canonical := k.image ▸ h.canonical
  capacity := by
    rw [k.image, k.params]
    exact h.capacity
  latched _ := by
    rw [k.cfg, k.params]
    exact h.latched hc
  prefixByte _ := k.image ▸ h.prefixByte hc
  fatal ha := by
    rw [k.created]
    exact h.fatal (k.allocFailed ▸ ha)
  busy _ := k.created.trans hc
  request := hreq
  phases := hph

theorem Inv.stored (h : Inv s) (hc : s.created = true) : s.image.Stored s.params.maxImageLen :=
  ⟨h.canonical, h.capacity, h.prefixByte hc⟩

/-- An operation on the image of a block with no FLUSH in progress: no staging word has a value that could depend on it
(R43). -/
theorem Inv.setImage {m : Memory} (h : Inv s) (hp : s.phase = .idle) (hm : m.Stored s.params.maxImageLen) :
    Inv (s.setImage m) where
  params := h.params
  canonical := hm.canonical
  capacity := hm.capacity
  latched := h.latched
  prefixByte _ := hm.prefixByte
  fatal := h.fatal
  busy := h.busy
  request := h.request
  phases := (phaseInv_idle_iff (s := s.setImage m) hp).2 ((phaseInv_idle_iff hp).1 h.phases)

/-- A failed allocation is latched on a block that is not created (R161). -/
theorem Inv.setAllocFailed (h : Inv s) (hc : s.created = false) : Inv (s.setAllocFailed true) where
  params := h.params
  canonical := h.canonical
  capacity := h.capacity
  latched := h.latched
  prefixByte := h.prefixByte
  fatal _ := hc
  busy := h.busy
  request := h.request
  phases := h.phases

/-- A successful INIT latches a legal geometry that fits and leaves its image (R80, R82). -/
theorem Inv.createImage {width height : Nat} {addr : DevAddr} (h : Inv s) (ha : s.allocFailed = false)
    (hc : s.created = false) (hg : GeometryOk width height)
    (hfit : imageLenOf width height ≤ s.params.maxImageLen) : Inv (createImage width height addr s) := by
  obtain ⟨hp, hr⟩ := h.ready_of_not_created hc
  obtain ⟨_, _, _, hcap⟩ := h.params
  have hm : (clearedImage s.image (imageLenOf width height)).Stored s.params.maxImageLen :=
    Memory.stored_clearedImage h.canonical h.capacity (by omega)
  exact
    { params := h.params
      canonical := hm.canonical
      capacity := hm.capacity
      latched := fun _ => ⟨hg, rfl, rfl, hfit⟩
      prefixByte := fun _ => hm.prefixByte
      fatal := by simp [ha]
      busy := fun _ => rfl
      request := by simp [hr]
      phases := (phaseInv_idle_iff (s := Machine.createImage width height addr s) hp).2
        ((phaseInv_idle_iff hp).1 h.phases) }

/-- SENDCMD on a ready block asks for a frame to the device (R60, R100). -/
theorem Inv.requestCmdWrite {b : Byte} (h : Inv s) (hc : s.created = true) (hp : s.phase = .idle) :
    Inv (requestCmdWrite b s) := by
  refine h.move hc ⟨rfl, rfl, rfl, rfl, rfl⟩ ?_ ?_
  · rintro r ⟨⟩
    exact ⟨rfl, rfl⟩
  · exact (phaseInv_idle_iff (s := Machine.requestCmdWrite b s) hp).2 ((phaseInv_idle_iff hp).1 h.phases)

/-- In phase AddressWindowSet the next bus write is asked for, or phase Staged begins with every byte sent (R110, R112);
`s` is the last state of the invariant, `t` the one in which the sequencer goes on. -/
theorem Inv.windowStep (h : Inv s) (hc : s.created = true) (k : KeepsImage s t) (hp : t.phase = .addressWindowSet)
    (hr : t.cmdReq = none) (hst : t.staging = []) (hact : t.bc.active = false) : Inv (windowStep t) := by
  have k' : KeepsImage s (Machine.windowStep t) :=
    ⟨by simp [k.params], by simp [k.created], by simp [k.allocFailed], by simp [k.cfg], by simp [k.image]⟩
  refine h.move hc k' ?_ ?_
  all_goals rcases windowStep_cases t with ⟨b, bs, _, e⟩ | ⟨hw, e⟩ <;> rw [e]
  · rintro r ⟨⟩
    exact ⟨rfl, rfl⟩
  · simp [hr]
  · exact (phaseInv_addressWindowSet_iff (by simpa using hp)).2 ⟨hst, hact, by simp⟩
  · exact (phaseInv_staged_iff (by simp)).2 ⟨hst, hact, hw, hr⟩

/-- FLUSH on a ready block starts with the first byte of `AW` (R110). -/
theorem Inv.flushStart (h : Inv s) (hc : s.created = true) (hs : s.Ready) : Inv (flushStart s) := by
  obtain ⟨hp, hr⟩ := hs
  obtain ⟨hst, _, hact⟩ := (phaseInv_idle_iff hp).1 h.phases
  exact h.windowStep (t := (s.setWindow (addressWindow s.params s.cfg)).setPhase .addressWindowSet) hc
    ⟨rfl, rfl, rfl, rfl, rfl⟩ rfl hr hst hact

/-- After a bus write that returned `ok` SENDCMD ends, or the sequencer goes on (R100, R112). -/
theorem Inv.answeredOk {r : CmdRequest} (h : Inv s) (hr : s.cmdReq = some r) :
    Inv (afterCmdOk (cmdReturned r .ok s)) := by
  have hc : s.created = true := h.busy (.inr (by simp [hr]))
  obtain ⟨hp, hst, hact⟩ := h.phase_of_request hr
  rcases afterCmdOk_cases (cmdReturned r .ok s) with ⟨hp, e⟩ | ⟨hp, e⟩ | ⟨hni, hnw, _⟩
  · rw [e]
    refine h.move hc ⟨rfl, rfl, rfl, rfl, rfl⟩ (by simp) ?_
    exact (phaseInv_idle_iff hp).2 ((phaseInv_idle_iff (s := s) hp).1 h.phases)
  · rw [e]
    exact h.windowStep hc ⟨rfl, rfl, rfl, rfl, rfl⟩ hp rfl hst hact
  · exact absurd hp (not_or.2 ⟨hni, hnw⟩)

/-- A bus write that returned `error` ends the operation (R102, R113). -/
theorem Inv.answeredError {r : CmdRequest} (h : Inv s) (hr : s.cmdReq = some r) :
    Inv (afterCmdError (cmdReturned r .error s)) := by
  obtain ⟨_, hst, hact⟩ := h.phase_of_request hr
  refine h.move (h.busy (.inr (by simp [hr]))) ⟨rfl, rfl, rfl, rfl, rfl⟩ (by simp) ?_
  exact (phaseInv_idle_iff rfl).2 ⟨hst, rfl, hact⟩

/-- Phase Staged fills the staging memory with the frame (R114 to R116). -/
theorem Inv.stageStep (h : Inv s) (hp : s.phase = .staged) : Inv (stageStep s) := by
  obtain ⟨_, hact, hw, hr⟩ := (phaseInv_staged_iff hp).1 h.phases
  refine h.move (h.busy (.inl (by simp [hp]))) ⟨rfl, rfl, rfl, rfl, rfl⟩ (by simp [hr]) ?_
  exact (phaseInv_armed_iff rfl).2 ⟨rfl, hact, hw, hr⟩

/-- A transfer starts with every word still to move (R117). -/
theorem triggered_running (s : State) : (triggered s).Running s.params s.cfg :=
  ⟨rfl, rfl, rfl, rfl, rfl, rfl, rfl, Nat.zero_add _, rfl, nofun⟩

/-- A Move keeps the count of words moved and to move (R122). -/
theorem Burst.Running.moved {b : Burst} {p : Config.Params} {c : Cfg} (h : b.Running p c) (ha : b.active = true)
    (hm : b.remaining ≠ 0) : b.moved.Running p c :=
  { h with
    progress := by
      have := h.progress
      simp only [Burst.moved]
      omega
    finished := by simp [Burst.moved, ha] }

/-- A Finish reports a transfer with no word left (R123). -/
theorem Burst.Running.finish {b : Burst} {p : Config.Params} {c : Cfg} (h : b.Running p c) (hm : b.remaining = 0) :
    b.finished.Running p c :=
  { h with
    report := rfl
    finished := fun _ => hm }

/-- Phase Armed starts the transfer of the frame (R117, R118). -/
theorem Inv.armStep (h : Inv s) (hp : s.phase = .armed) : Inv (armStep s) := by
  obtain ⟨hst, _, hw, hr⟩ := (phaseInv_armed_iff hp).1 h.phases
  refine h.move (h.busy (.inl (by simp [hp]))) ⟨rfl, rfl, rfl, rfl, rfl⟩ (by simp [hr]) ?_
  exact (phaseInv_completed_iff rfl).2 ⟨hst, triggered_running s, hw, hr⟩

/-- A step of the burst channel in phase Completed, which may log an event (R122, R123). -/
theorem Inv.burstStep {b : Burst} {e : Event} (h : Inv s) (hp : s.phase = .completed)
    (hb : b.Running s.params s.cfg) : Inv ((s.logEvent e).setBc b) := by
  obtain ⟨hst, _, hw, hr⟩ := (phaseInv_completed_iff hp).1 h.phases
  refine h.move (h.busy (.inl (by simp [hp]))) ⟨rfl, rfl, rfl, rfl, rfl⟩ (by simp [hr]) ?_
  exact (phaseInv_completed_iff (by simpa using hp)).2 ⟨hst, hb, hw, hr⟩

/-- The return to Idle leaves no staging word with a value (R119). -/
theorem Inv.flushDone (h : Inv s) (hp : s.phase = .completed) (ha : s.bc.active = false) : Inv (flushDone s) := by
  obtain ⟨_, _, hw, hr⟩ := (phaseInv_completed_iff hp).1 h.phases
  refine h.move (h.busy (.inl (by simp [hp]))) ⟨rfl, rfl, rfl, rfl, rfl⟩ (by simp [hr]) ?_
  exact (phaseInv_idle_iff rfl).2 ⟨rfl, hw, ha⟩

/-! ### The step -/

/-- Every operation a ready block runs keeps the invariant. -/
theorem Inv.exec {i : Instr} (h : Inv s) (hs : s.Ready) (he : exec i s = .next t) : Inv t := by
  rcases exec_next_cases he with
    ⟨_, _, rfl⟩ | ⟨width, height, addr, _, ha, hc, hg, ⟨_, rfl⟩ | ⟨hfit, rfl⟩⟩ | ⟨_, hc, hd⟩
  · exact h.congr rfl
  · exact (h.setAllocFailed hc).congr rfl
  · exact (h.createImage ha hc hg hfit).congr rfl
  · have hfits : s.cfg.imageLen ≤ s.params.maxImageLen := (h.latched hc).fits
    cases hd with
    | locate _ => exact h.congr rfl
    | setpix _ hi => exact (h.setImage hs.1 ((h.stored hc).writePixel (hi.trans_le hfits))).congr rfl
    | getpix _ _ => exact h.congr rfl
    | fill hf => exact (h.setImage hs.1 ((h.stored hc).fillPixels hfits hf)).congr rfl
    | sendcmd => exact h.requestCmdWrite hc hs.1
    | flush => exact h.flushStart hc hs

/-- Every step without a reset keeps the invariant. -/
theorem Inv.advanced {inp : Inputs} (h : Inv s) (hadv : Advanced inp s t) : Inv t := by
  cases hadv with
  | unanswered _ _ | noWord _ _ | notReady _ _ _ _ _ | noReport _ _ _ _ => exact h
  | answeredOk hr _ => exact h.answeredOk hr
  | answeredError hr _ => exact h.answeredError hr
  | @illegal w rest e _ _ _ =>
    rcases rejectIllegal_eq_raise (s.setHostWords rest) with ⟨_, e⟩ | ⟨_, e⟩
    all_goals
      rw [e]
      exact h.congr rfl
  | @run w rest i _ hs _ _ he => exact Inv.exec (s := s.setHostWords rest) (h.congr rfl) hs he
  | windowByte hp hr _ | windowDone hp hr _ =>
    obtain ⟨_, _, hne⟩ := (phaseInv_addressWindowSet_iff hp).1 h.phases
    exact absurd hr hne
  | stage hp _ => exact h.stageStep hp
  | arm hp _ => exact h.armStep hp
  | move hp _ ha hm _ _ =>
    obtain ⟨_, hrun, _⟩ := (phaseInv_completed_iff hp).1 h.phases
    exact h.burstStep hp (hrun.moved ha hm)
  | finish hp _ _ hm =>
    obtain ⟨_, hrun, _⟩ := (phaseInv_completed_iff hp).1 h.phases
    exact (h.burstStep (e := .done) hp (hrun.finish hm)).congr rfl
  | returnIdle hp _ ha _ => exact h.flushDone hp ha

/-- A block right after reset meets the invariant, for every legal value of its parameters (R180). -/
theorem inv_resetWith {p : Config.Params} (hp : p.Legal) : Inv (State.resetWith p) where
  params := hp
  canonical := Memory.wf_nil
  capacity := nofun
  latched := nofun
  prefixByte := nofun
  fatal := nofun
  busy := by simp [State.resetWith]
  request := nofun
  phases := ⟨rfl, rfl, rfl⟩

end

/-- Settles O45, by the inversion of `step`: a reset leaves a block that meets the invariant, and each move keeps it. -/
theorem stepKeepsInvariant : Obligations.StepKeepsInvariant := by
  intro s t h hstep
  have hsampled : Inv s.afterSample := h.congr rfl
  rcases step_next_cases hstep with ⟨_, rfl⟩ | ⟨_, hadv⟩
  · exact (inv_resetWith h.params).congr rfl
  · exact hsampled.advanced hadv

end Sys2Proof.Machine
end

section
/-! PROOF. The events of a step: at most one that is no response, then at most one response, which leaves the block
ready. -/

namespace Sys2Proof.Machine

/-- The events a step appends: at most one that is no response, then a response if the operation ends, which leaves the
block ready. -/
def EventsOfStep (s t : State) : Prop :=
  ∃ pre : List Event, pre.length ≤ 1 ∧ (∀ w, .rsp w ∉ pre) ∧
    (t.log = s.log ++ pre ∨ t.Ready ∧ ∃ w, t.log = s.log ++ (pre ++ [.rsp w]))

section
variable {s t : State}

theorem eventsOfStep_silent (h : t.log = s.log) : EventsOfStep s t :=
  ⟨[], by simp, by simp, .inl (by simp [h])⟩

theorem eventsOfStep_one {e : Event} (he : e.response? = none) (h : t.log = s.log ++ [e]) : EventsOfStep s t :=
  ⟨[e], by simp, by rintro w hw; simp [← List.mem_singleton.1 hw, Event.response?] at he, .inl h⟩

theorem eventsOfStep_answer {w : CmdWord} (hr : t.Ready) (h : t.log = s.log ++ [.rsp w]) : EventsOfStep s t :=
  ⟨[], by simp, by simp, .inr ⟨hr, w, by simp [h]⟩⟩

theorem eventsOfStep_returned {r : CmdRequest} {o : CmdOutcome} {w : CmdWord} (hr : t.Ready)
    (h : t.log = s.log ++ [.cmd r.addr r.b0 r.b1 o, .rsp w]) : EventsOfStep s t :=
  ⟨[.cmd r.addr r.b0 r.b1 o], by simp, by simp, .inr ⟨hr, w, by simp [h]⟩⟩

/-- The only response among the events of a step is the last of them (R26, R170). -/
theorem EventsOfStep.response_last (h : EventsOfStep s t) :
    ∃ es, t.log = s.log ++ es ∧ es.length ≤ 2 ∧
      ∀ pre post w, es = pre ++ .rsp w :: post → post = [] ∧ (∀ w', .rsp w' ∉ pre) ∧ t.Ready := by
  obtain ⟨quiet, hlen, hquiet, hlog | ⟨hready, a, hlog⟩⟩ := h
  · refine ⟨quiet, hlog, by omega, fun pre post w e => ?_⟩
    exact absurd (e ▸ by simp) (hquiet w)
  · refine ⟨quiet ++ [.rsp a], hlog, by simpa using hlen, fun pre post w e => ?_⟩
    rcases List.eq_nil_or_concat post with rfl | ⟨post, last, rfl⟩
    · obtain ⟨rfl, _⟩ := List.append_inj' e rfl
      exact ⟨rfl, hquiet, hready⟩
    · have e : quiet ++ [.rsp a] = (pre ++ .rsp w :: post) ++ [last] := e.trans (by simp)
      obtain ⟨rfl, _⟩ := List.append_inj' e rfl
      exact absurd (by simp) (hquiet w)

/-- An instruction a ready block runs answers at once, or logs nothing: SENDCMD and FLUSH answer later (R150). -/
theorem exec_eventsOfStep {i : Instr} (hs : s.Ready) (he : exec i s = .next t) : EventsOfStep s t := by
  rcases exec_next_cases he with ⟨_, _, rfl⟩ | ⟨_, _, _, _, _, _, _, ⟨_, rfl⟩ | ⟨_, rfl⟩⟩ | ⟨_, _, hd⟩
  · exact eventsOfStep_answer hs rfl
  · exact eventsOfStep_answer hs rfl
  · exact eventsOfStep_answer hs rfl
  · cases hd with
    | locate _ | setpix _ _ | getpix _ _ | fill _ => exact eventsOfStep_answer hs rfl
    | sendcmd => exact eventsOfStep_silent rfl
    | flush => exact eventsOfStep_silent (by simp)

/-- The events of every step without a reset. -/
theorem Advanced.eventsOfStep {inp : Inputs} (h : Advanced inp s t) : EventsOfStep s t := by
  cases h with
  | unanswered _ _ | noWord _ _ | notReady _ _ _ _ _ | noReport _ _ _ _ => exact eventsOfStep_silent rfl
  | @answeredOk r _ _ =>
    rcases afterCmdOk_cases (cmdReturned r .ok s) with ⟨hp, e⟩ | ⟨_, e⟩ | ⟨_, _, e⟩
    all_goals rw [e]
    · exact eventsOfStep_returned (r := r) (o := .ok) (w := responseWord .ok 0 0#8 false) ⟨hp, rfl⟩ (by simp)
    · exact eventsOfStep_one (e := .cmd r.addr r.b0 r.b1 .ok) rfl (by simp)
    · exact eventsOfStep_one (e := .cmd r.addr r.b0 r.b1 .ok) rfl rfl
  | @answeredError r _ _ =>
    exact eventsOfStep_returned (r := r) (o := .error) (w := responseWord .busError 0 0#8 false) ⟨rfl, rfl⟩ (by simp)
  | illegal hs _ _ => exact eventsOfStep_answer ⟨by simpa using hs.1, by simpa using hs.2⟩ (rejectIllegal_log _)
  | @run w rest i _ hs _ _ he => exact exec_eventsOfStep (s := s.setHostWords rest) hs he
  | windowByte _ _ _ | windowDone _ _ _ | stage _ _ => exact eventsOfStep_silent rfl
  | arm _ _ => exact eventsOfStep_one rfl (armStep_log s)
  | move _ _ _ _ _ _ => exact eventsOfStep_one rfl rfl
  | finish _ _ _ _ => exact eventsOfStep_one rfl rfl
  | returnIdle _ hr _ _ => exact eventsOfStep_answer ⟨rfl, hr⟩ rfl

end

/-- Settles O52, from the events of each step: the invariant plays no part. -/
theorem responsesEndOperations : Obligations.ResponsesEndOperations := by
  intro s t _ hreset hstep
  rcases step_next_cases hstep with ⟨h, _⟩ | ⟨_, hadv⟩
  · simp [hreset] at h
  · exact EventsOfStep.response_last (s := s.afterSample) hadv.eventsOfStep

end Sys2Proof.Machine
end

section
/-! PROOF. What a FLUSH has logged after any of its steps, whatever the platform answers, and with it the log of a FLUSH
that has been answered. -/

namespace Sys2Proof.Machine

section
variable {s u t : State}

/-- A run without resets in store samples none in its first step. -/
theorem NoReset.sampled (h : NoReset s) : s.sampled.reset = false := by
  unfold State.sampled
  cases hi : s.inputs with
  | nil => rfl
  | cons inp _ => exact h inp (by simp [hi])

/-- A run of at least one step, split at its first. -/
theorem Steps.uncons {n : Nat} (h : Steps (n + 1) s t) : ∃ u, step s = .next u ∧ Steps n u t := by
  induction n generalizing t with
  | zero =>
    cases h with
    | next h0 e =>
      cases h0
      exact ⟨t, e, .refl t⟩
  | succ n ih =>
    cases h with
    | next h e =>
      obtain ⟨u, e1, h1⟩ := ih h
      exact ⟨u, e1, .next h1 e⟩

/-- A step uses up the inputs it has sampled and no others (R22). -/
theorem Advanced.keeps_inputs {inp : Inputs} (h : Advanced inp s t) : t.inputs = s.inputs := by
  cases h with
  | run _ _ _ he =>
    obtain ⟨_, _, _, _, hin⟩ := exec_unchanged he
    exact hin
  | _ => simp

/-- Without a word of the host nothing writes the image, the latches or the parameters (R43, R188). -/
theorem Advanced.keepsImage_of_no_word {inp : Inputs} (hw : s.hostWords = []) (h : Advanced inp s t) :
    KeepsImage s t ∧ t.hostWords = [] := by
  cases h with
  | run _ hw' _ _ | illegal _ hw' _ => simp [hw] at hw'
  | _ => exact ⟨⟨by simp, by simp, by simp, by simp, by simp⟩, by simp [hw]⟩

theorem KeepsImage.trans (h : KeepsImage s u) (h' : KeepsImage u t) : KeepsImage s t where
  params := h'.params.trans h.params
  created := h'.created.trans h.created
  allocFailed := h'.allocFailed.trans h.allocFailed
  cfg := h'.cfg.trans h.cfg
  image := h'.image.trans h.image

/-! ### The frame -/

/-- The data-register writes of R125 are the words of the staging memory. -/
theorem frameEvents_eq_map (hp : s.params.Legal) (hpos : 1 ≤ s.cfg.imageLen) :
    frameEvents s = (frameOf s).map .data := by
  have hlen : s.cfg.imageLen = (s.cfg.imageLen - 1) + 1 := by omega
  simp [frameEvents, frameOf_eq hp hlen]

/-- In phase Completed the staging memory holds the frame, one event for each of its words. -/
theorem Inv.frameEvents_eq (h : Inv u) (k : KeepsImage s u) (hp : u.phase = .completed) :
    frameEvents s = u.staging.map .data ∧ u.staging.length = u.cfg.imageLen := by
  obtain ⟨hst, _⟩ := (phaseInv_completed_iff hp).1 h.phases
  have hlen : u.cfg.imageLen = _ + 1 := (h.latched (h.busy (.inl (by simp [hp])))).imageLen
  have hframe : frameEvents u = (frameOf u).map .data := frameEvents_eq_map h.params (by omega)
  have hsame : frameEvents s = frameEvents u := by simp [frameEvents, k.params, k.cfg, k.image]
  exact ⟨by rw [hsame, hframe, hst], by simp [hst]⟩

/-! ### The log of a FLUSH -/

/-- What a FLUSH accepted in `s` has logged once it is answered (R125). -/
def FlushAnswered (s : State) (log : List Event) : Prop :=
  log = s.log ++ okFlushLog s ∨
    ∃ sent b unsent, addressWindow s.params s.cfg = sent ++ b :: unsent ∧ log = s.log ++ failedFlushLog s sent b

/-- The log once every byte of `AW` has been sent. -/
def windowLog (s : State) : List Event := s.log ++ okWrites s (addressWindow s.params s.cfg)

/-- What a FLUSH accepted in `s` has logged when the block stands in `u`, phase by phase: a bus write for each byte of `AW`
before the outstanding one, then the trigger, an event for each word moved, and the report. -/
def FlushProgress (s u : State) : Prop :=
  match u.phase with
  | .idle => u.cmdReq = none ∧ FlushAnswered s u.log
  | .addressWindowSet => ∃ sent b, addressWindow s.params s.cfg = sent ++ b :: u.window ∧
      u.cmdReq = some ⟨s.cfg.devAddr, Config.ctrlCmd, b⟩ ∧ u.log = s.log ++ okWrites s sent
  | .staged => u.log = windowLog s
  | .armed => u.log = windowLog s
  | .completed => u.log = windowLog s ++ [.arm 0 s.params.dataRegAddr s.params.wordBits s.cfg.imageLen] ++
      (frameEvents s).take u.bc.pos ++ if u.bc.active then [] else [.done]

theorem flushProgress_idle_iff (h : u.phase = .idle) :
    FlushProgress s u ↔ u.cmdReq = none ∧ FlushAnswered s u.log := by simp [FlushProgress, h]

theorem flushProgress_addressWindowSet_iff (h : u.phase = .addressWindowSet) :
    FlushProgress s u ↔ ∃ sent b, addressWindow s.params s.cfg = sent ++ b :: u.window ∧
      u.cmdReq = some ⟨s.cfg.devAddr, Config.ctrlCmd, b⟩ ∧ u.log = s.log ++ okWrites s sent := by
  simp [FlushProgress, h]

theorem flushProgress_staged_iff (h : u.phase = .staged) : FlushProgress s u ↔ u.log = windowLog s := by
  simp [FlushProgress, h]

theorem flushProgress_armed_iff (h : u.phase = .armed) : FlushProgress s u ↔ u.log = windowLog s := by
  simp [FlushProgress, h]

theorem flushProgress_completed_iff (h : u.phase = .completed) :
    FlushProgress s u ↔ u.log = windowLog s ++ [.arm 0 s.params.dataRegAddr s.params.wordBits s.cfg.imageLen] ++
      (frameEvents s).take u.bc.pos ++ if u.bc.active then [] else [.done] := by
  simp [FlushProgress, h]

/-- A bus write outstanding during a FLUSH is that of the first byte of `AW` not yet answered (R112). -/
theorem FlushProgress.of_request {r : CmdRequest} (h : FlushProgress s u) (hu : Inv u) (hr : u.cmdReq = some r) :
    u.phase = .addressWindowSet ∧ ∃ sent b, addressWindow s.params s.cfg = sent ++ b :: u.window ∧
      r = ⟨s.cfg.devAddr, Config.ctrlCmd, b⟩ ∧ u.log = s.log ++ okWrites s sent := by
  obtain ⟨hp | hp, _⟩ := hu.phase_of_request hr
  · obtain ⟨hnone, _⟩ := (flushProgress_idle_iff hp).1 h
    simp [hr] at hnone
  · obtain ⟨sent, b, haw, hreq, hlog⟩ := (flushProgress_addressWindowSet_iff hp).1 h
    exact ⟨hp, sent, b, haw, by simpa [hr] using hreq, hlog⟩

/-- The start of a FLUSH: nothing logged, the first byte of `AW` asked for. -/
theorem flushProgress_flushStart (hlog : u.log = s.log) (k : KeepsImage s u) : FlushProgress s (flushStart u) := by
  obtain ⟨b, bs, haw, e⟩ := flushStart_eq u
  rw [k.params, k.cfg] at haw
  refine (flushProgress_addressWindowSet_iff (by simp)).2 ⟨[], b, ?_, ?_, ?_⟩
  · simp [k.params, k.cfg, haw]
  · simp [e, k.cfg]
  · simp [hlog, okWrites]

/-- An `ok` answer logs its bus write; the next byte of `AW` is asked for, or all of them have been sent. -/
theorem FlushProgress.answeredOk {r : CmdRequest} (h : FlushProgress s u) (hu : Inv u) (k : KeepsImage s u)
    (hr : u.cmdReq = some r) : FlushProgress s (afterCmdOk (cmdReturned r .ok u)) := by
  obtain ⟨hp, sent, b, haw, hreq, hlog⟩ := h.of_request hu hr
  have hnext : afterCmdOk (cmdReturned r .ok u) = windowStep (cmdReturned r .ok u) := by simp [afterCmdOk, hp]
  have hsent : u.log ++ [.cmd r.addr r.b0 r.b1 .ok] = s.log ++ okWrites s (sent ++ [b]) := by
    simp [hlog, hreq, okWrites]
  rw [hnext]
  rcases windowStep_cases (cmdReturned r .ok u) with ⟨b', bs, hw, e⟩ | ⟨hw, e⟩
  all_goals
    rw [cmdReturned_window] at hw
    rw [e]
  · refine (flushProgress_addressWindowSet_iff (by simpa using hp)).2 ⟨sent ++ [b], b', ?_, ?_, hsent⟩
    · simp [haw, hw]
    · simp [k.cfg]
  · refine (flushProgress_staged_iff rfl).2 ?_
    rw [windowLog, haw, hw]
    exact hsent

/-- An `error` answer ends the FLUSH at that byte (R113). -/
theorem FlushProgress.answeredError {r : CmdRequest} (h : FlushProgress s u) (hu : Inv u) (hr : u.cmdReq = some r) :
    FlushProgress s (afterCmdError (cmdReturned r .error u)) := by
  obtain ⟨_, sent, b, haw, rfl, hlog⟩ := h.of_request hu hr
  refine (flushProgress_idle_iff rfl).2 ⟨rfl, .inr ⟨sent, b, u.window, haw, ?_⟩⟩
  have hrsp : responseWord .busError 0 0#8 false = 0x20000000#32 := by decide
  simp [hlog, failedFlushLog, hrsp]

/-- The trigger is logged before any word has been moved (R117). -/
theorem FlushProgress.armStep (h : FlushProgress s u) (k : KeepsImage s u) (hp : u.phase = .armed) :
    FlushProgress s (armStep u) := by
  refine (flushProgress_completed_iff rfl).2 ?_
  simp [(flushProgress_armed_iff hp).1 h, k.params, k.cfg, triggered]

/-- A Move logs the next word of the frame (R122). -/
theorem FlushProgress.move {w : WideWord} (h : FlushProgress s u) (hu : Inv u) (k : KeepsImage s u)
    (hp : u.phase = .completed) (ha : u.bc.active = true) (hw : u.staging[u.bc.src + u.bc.pos]? = some w) :
    FlushProgress s ((u.logEvent (.data w)).setBc u.bc.moved) := by
  obtain ⟨_, hrun, _⟩ := (phaseInv_completed_iff hp).1 hu.phases
  have hlog := (flushProgress_completed_iff hp).1 h
  have hnext : (frameEvents s)[u.bc.pos]? = some (.data w) := by
    rw [hrun.src, Nat.zero_add] at hw
    simp [(hu.frameEvents_eq k hp).1, hw]
  refine (flushProgress_completed_iff (by simpa using hp)).2 ?_
  simp [hlog, ha, Burst.moved, List.take_add_one, hnext]

/-- Finish logs the report (R123). -/
theorem FlushProgress.finish (h : FlushProgress s u) (hp : u.phase = .completed) (ha : u.bc.active = true) :
    FlushProgress s (burstFinish u) := by
  refine (flushProgress_completed_iff (by simpa using hp)).2 ?_
  simp [(flushProgress_completed_iff hp).1 h, ha, Burst.finished]

/-- The answer `OK` comes when the whole frame has been moved and reported (R119, R125). -/
theorem FlushProgress.flushDone (h : FlushProgress s u) (hu : Inv u) (k : KeepsImage s u) (hp : u.phase = .completed)
    (ha : u.bc.active = false) : FlushProgress s (flushDone u) := by
  obtain ⟨_, hrun, _, hr⟩ := (phaseInv_completed_iff hp).1 hu.phases
  obtain ⟨hframe, hlen⟩ := hu.frameEvents_eq k hp
  have hall : u.bc.pos = u.cfg.imageLen := by
    have := hrun.progress
    have := hrun.finished ha
    omega
  have htake : (frameEvents s).take u.bc.pos = frameEvents s :=
    List.take_of_length_le (by simp [hframe, hlen, hall])
  have hrsp : responseWord .ok 0 0#8 false = 0x00000000#32 := by decide
  refine (flushProgress_idle_iff rfl).2 ⟨hr, .inl ?_⟩
  simp [(flushProgress_completed_iff hp).1 h, windowLog, okFlushLog, ha, htake, hrsp]

/-- Every step of a FLUSH, and every step after its answer while the host hands over no word, keeps its log on course. -/
theorem FlushProgress.advanced {inp : Inputs} (h : FlushProgress s u) (hu : Inv u) (k : KeepsImage s u)
    (hw : u.hostWords = []) (hadv : Advanced inp u t) : FlushProgress s t := by
  cases hadv with
  | unanswered _ _ | noWord _ _ | notReady _ _ _ _ _ | noReport _ _ _ _ => exact h
  | answeredOk hr _ => exact h.answeredOk hu k hr
  | answeredError hr _ => exact h.answeredError hu hr
  | illegal _ hw' _ | run _ hw' _ _ => simp [hw] at hw'
  | windowByte hp hr _ | windowDone hp hr _ =>
    obtain ⟨_, _, hne⟩ := (phaseInv_addressWindowSet_iff hp).1 hu.phases
    exact absurd hr hne
  | stage hp _ => exact (flushProgress_armed_iff rfl).2 ((flushProgress_staged_iff hp).1 h)
  | arm hp _ => exact h.armStep k hp
  | move hp _ ha _ _ hword => exact h.move hu k hp ha hword
  | finish hp _ ha _ => exact h.finish hp ha
  | returnIdle hp _ ha _ => exact h.flushDone hu k hp ha

/-! ### The run -/

/-- The block in `u` is carrying out the FLUSH it accepted in `s`, or has answered it, with nothing else to do and no reset
to come. -/
structure FlushRun (s u : State) : Prop where
  inv : Inv u
  noReset : NoReset u
  keeps : KeepsImage s u
  noWord : u.hostWords = []
  progress : FlushProgress s u

/-- The step that accepts FLUSH starts it (R110). -/
theorem flushRun_of_accepted (hs : Inv s) (hready : s.Ready) (hc : s.created = true) (hn : NoReset s)
    (hw : s.hostWords = [encode .flush]) (e : step s = .next u) : FlushRun s u := by
  have ha : s.allocFailed = false := by
    by_contra hne
    simp [hs.fatal (by simpa using hne)] at hc
  have htakes : Takes s (encode .flush) [] := ⟨hready, hn.sampled, hw⟩
  have hdecode : decode (encode .flush) = .ok .flush := by decide
  have hstart : step s = .next (flushStart (taken s [])) := by
    rw [step_of_takes htakes, runWord, hdecode]
    exact whenCreated_pass (s := taken s []) ha hc _
  obtain rfl : flushStart (taken s []) = u := by simpa [hstart] using e
  exact
    { inv := stepKeepsInvariant s _ hs e
      noReset := fun inp hin => hn inp (List.mem_of_mem_tail (by simpa using hin))
      keeps := ⟨by simp, by simp, by simp, by simp, by simp⟩
      noWord := by simp
      progress := flushProgress_flushStart rfl ⟨rfl, rfl, rfl, rfl, rfl⟩ }

/-- Every later step carries it on. -/
theorem FlushRun.step (h : FlushRun s u) (e : step u = .next t) : FlushRun s t := by
  rcases step_next_cases e with ⟨hreset, _⟩ | ⟨_, hadv⟩
  · simp [h.noReset.sampled] at hreset
  · obtain ⟨hkeeps, hword⟩ := hadv.keepsImage_of_no_word (s := u.afterSample) h.noWord
    have hsampled : KeepsImage s u.afterSample := h.keeps.trans ⟨rfl, rfl, rfl, rfl, rfl⟩
    exact
      { inv := stepKeepsInvariant u t h.inv e
        noReset := fun inp hin => h.noReset inp (List.mem_of_mem_tail (by simpa [hadv.keeps_inputs] using hin))
        keeps := hsampled.trans hkeeps
        noWord := hword
        progress :=
          FlushProgress.advanced (u := u.afterSample) h.progress (h.inv.congr rfl) hsampled h.noWord hadv }

end

/-- Settles O42, by the log a FLUSH has written in each of its phases: once the block is ready again it is the log of an
answered FLUSH. -/
theorem flushLogsItsFrame : Obligations.FlushLogsItsFrame := by
  intro n s t hs hready hc hn hw hsteps hpos ht
  obtain ⟨m, rfl⟩ : ∃ m, n = m + 1 := ⟨n - 1, by omega⟩
  obtain ⟨u, hfirst, hrest⟩ := hsteps.uncons
  have hrun : FlushRun s t :=
    hrest.invariant (P := FlushRun s) (fun _ _ h e => h.step e) (flushRun_of_accepted hs hready hc hn hw hfirst)
  obtain ⟨_, hlog⟩ := (flushProgress_idle_iff ht.1).1 hrun.progress
  obtain ⟨hstaging, _⟩ := (phaseInv_idle_iff ht.1).1 hrun.inv.phases
  exact ⟨hlog, hrun.keeps.image, hrun.keeps.cfg, hrun.keeps.params, hrun.keeps.created.trans hc, hstaging⟩

end Sys2Proof.Machine
end

section
/-! PROOF. The image during a flush and the staging memory during a burst: which moves write them, and that none of
these is enabled then. -/

namespace Sys2Proof.Machine

section
variable {s t : State} {inp : Inputs}

/-- Only an operation taken from the command port writes the image, and the port takes none outside phase Idle (R43,
R188). -/
theorem Advanced.keeps_image (hp : s.phase ≠ .idle) (h : Advanced inp s t) : t.image = s.image := by
  cases h with
  | run hs _ _ _ => exact absurd hs.1 hp
  | _ => simp

/-- The staging memory is written by phase Staged alone, and emptied by the return to Idle, which waits for the burst
channel (R43, R119). -/
theorem Advanced.keeps_staging (hp : s.phase ≠ .staged) (ha : s.bc.active = true) (h : Advanced inp s t) :
    t.staging = s.staging := by
  cases h with
  | run _ _ _ he =>
    obtain ⟨_, hst, _⟩ := exec_unchanged he
    exact hst
  | stage hp' _ => exact absurd hp' hp
  | returnIdle _ _ ha' _ => simp [ha'] at ha
  | _ => simp

/-- The burst channel is active in phase Completed alone (R21, R118). -/
theorem Inv.phase_of_active (h : Inv s) (ha : s.bc.active = true) : s.phase = .completed := by
  have hph := h.phases
  cases hp : s.phase with
  | idle => simp [(phaseInv_idle_iff hp).1 hph] at ha
  | addressWindowSet => simp [(phaseInv_addressWindowSet_iff hp).1 hph] at ha
  | staged => simp [(phaseInv_staged_iff hp).1 hph] at ha
  | armed => simp [(phaseInv_armed_iff hp).1 hph] at ha
  | completed => rfl

end

/-- Settles O49, by the moves that write each memory: the image is written only from phase Idle, and the staging memory
not in phase Completed while the burst channel is active, the phase the invariant gives for an active channel. -/
theorem frameStableInFlight : Obligations.FrameStableInFlight := by
  intro s t hs hreset hstep
  rcases step_next_cases hstep with ⟨h, _⟩ | ⟨_, hadv⟩
  · simp [hreset] at h
  · refine ⟨fun hp => hadv.keeps_image (s := s.afterSample) hp, fun ha => ?_⟩
    have hp : s.phase = .completed := hs.phase_of_active ha
    exact hadv.keeps_staging (s := s.afterSample) (by simp [hp]) ha

end Sys2Proof.Machine
end

section
/-! PROOF. Decoder and encoder: what a word that decodes looks like, said once, and with it the two round trips and the
opcode map (R50 to R57). -/

namespace Sys2Proof

section
variable {w : CmdWord} {i : Instr}

/-- Decoding the word of a well-formed instruction reads its operands back, one format after another (R51 to R56). -/
theorem decode_encode (h : i.WellFormed) : decode (encode i) = .ok i := by
  cases i with
  | init width height addr =>
    obtain ⟨hopc, hlow, hheight, haddr⟩ := fields_formatG (opc := 1) (by decide) addr height width
    obtain ⟨hw, hh⟩ := (wellFormed_init width height addr).1 h
    simp [decode_eq, encode, hopc, hlow, hheight, haddr, Nat.mod_eq_of_lt hw, Nat.mod_eq_of_lt hh]
  | locate x y =>
    obtain ⟨hopc, hlow, hy, _, _, hzero⟩ := fields_formatP (opc := 2) (by decide) false y x
    obtain ⟨fx, fy⟩ := (wellFormed_locate x y).1 h
    simp [decode_eq, encode, hopc, hlow, hy, hzero, Nat.mod_eq_of_lt fx, Nat.mod_eq_of_lt fy]
  | setpix x y v =>
    obtain ⟨hopc, hlow, hy, hv, hzero, _⟩ := fields_formatP (opc := 3) (by decide) v y x
    obtain ⟨fx, fy⟩ := (wellFormed_setpix x y v).1 h
    simp [decode_eq, encode, hopc, hlow, hy, hv, hzero, Nat.mod_eq_of_lt fx, Nat.mod_eq_of_lt fy]
  | getpix x y =>
    obtain ⟨hopc, hlow, hy, _, _, hzero⟩ := fields_formatP (opc := 4) (by decide) false y x
    obtain ⟨fx, fy⟩ := (wellFormed_getpix x y).1 h
    simp [decode_eq, encode, hopc, hlow, hy, hzero, Nat.mod_eq_of_lt fx, Nat.mod_eq_of_lt fy]
  | fill v =>
    obtain ⟨hopc, hv, hzero⟩ := fields_formatV (opc := 5) (by decide) v
    simp [decode_eq, encode, hopc, hv, hzero]
  | sendcmd cmd =>
    obtain ⟨hopc, hcmd, hzero⟩ := fields_formatB (opc := 6) (by decide) cmd
    simp [decode_eq, encode, hopc, hcmd, hzero]
  | flush =>
    obtain ⟨hopc, hzero⟩ := fields_formatN (opc := 7) (by decide)
    simp [decode_eq, encode, hopc, hzero]

/-- The word `w` is the instruction, bit by bit: the opcode of its row, its operands in their fields, zero in the bits its
format reserves (R51 to R57). -/
inductive Spells (w : CmdWord) : Instr → Prop where
  | init (hopc : opcField w = 1#4) :
    Spells w (.init (lowField w).toNat (heightField w).toNat (addrField w))
  | locate (hopc : opcField w = 2#4) (hz : slice w 24 4 = 0#4) :
    Spells w (.locate (lowField w).toNat (yField w).toNat)
  | setpix (hopc : opcField w = 3#4) (hz : slice w 25 3 = 0#3) :
    Spells w (.setpix (lowField w).toNat (yField w).toNat (vField w))
  | getpix (hopc : opcField w = 4#4) (hz : slice w 24 4 = 0#4) :
    Spells w (.getpix (lowField w).toNat (yField w).toNat)
  | fill (hopc : opcField w = 5#4) (hz : slice w 25 3 = 0#3) (hz' : slice w 0 24 = 0#24) :
    Spells w (.fill (vField w))
  | sendcmd (hopc : opcField w = 6#4) (hz : slice w 8 20 = 0#20) : Spells w (.sendcmd (cmdField w))
  | flush (hopc : opcField w = 7#4) (hz : slice w 0 28 = 0#28) : Spells w .flush

/-- The inversion of `decode`. -/
theorem spells_of_decode (h : decode w = .ok i) : Spells w i := by
  have hopc {n : Nat} (e : (opcField w).toNat = n) : opcField w = BitVec.ofNat 4 n := by
    rw [← e, BitVec.ofNat_toNat, BitVec.setWidth_eq]
  unfold decode at h
  split at h
  next e => cases h; exact .init (hopc e)
  next e =>
    obtain ⟨hz, rfl⟩ := ifReservedZero_eq_ok.1 h
    exact .locate (hopc e) (eq_of_beq hz)
  next e =>
    obtain ⟨hz, rfl⟩ := ifReservedZero_eq_ok.1 h
    exact .setpix (hopc e) (eq_of_beq hz)
  next e =>
    obtain ⟨hz, rfl⟩ := ifReservedZero_eq_ok.1 h
    exact .getpix (hopc e) (eq_of_beq hz)
  next e =>
    obtain ⟨hz, rfl⟩ := ifReservedZero_eq_ok.1 h
    obtain ⟨hhigh, hlow⟩ := Bool.and_eq_true_iff.1 hz
    exact .fill (hopc e) (eq_of_beq hhigh) (eq_of_beq hlow)
  next e =>
    obtain ⟨hz, rfl⟩ := ifReservedZero_eq_ok.1 h
    exact .sendcmd (hopc e) (eq_of_beq hz)
  next e =>
    obtain ⟨hz, rfl⟩ := ifReservedZero_eq_ok.1 h
    exact .flush (hopc e) (eq_of_beq hz)
  next => nomatch h

/-- The decoder takes every word that spells an instruction. -/
theorem decode_of_spells (h : Spells w i) : decode w = .ok i := by
  cases h with
  | init hopc => simp [decode_eq, hopc]
  | locate hopc hz | getpix hopc hz => simp [decode_eq, hopc, reservedZeroPNoV, beq_iff_eq.2 hz, -slice_beq]
  | setpix hopc hz => simp [decode_eq, hopc, reservedZeroP, beq_iff_eq.2 hz, -slice_beq]
  | fill hopc hz hz' => simp [decode_eq, hopc, reservedZeroV, beq_iff_eq.2 hz, beq_iff_eq.2 hz', -slice_beq]
  | sendcmd hopc hz => simp [decode_eq, hopc, reservedZeroB, beq_iff_eq.2 hz, -slice_beq]
  | flush hopc hz => simp [decode_eq, hopc, reservedZeroN, beq_iff_eq.2 hz, -slice_beq]


/-! ### A word put together from its fields -/

/-- The field `v` as a number. -/
theorem toNat_vField (w : CmdWord) : (vField w).toNat = w.toNat / 2 ^ 24 % 2 := by
  rcases Nat.mod_two_eq_zero_or_one (w.toNat / 2 ^ 24) with h | h
  all_goals
    rw [vField, slice_beq, Nat.pow_one, h]
    rfl

theorem formatP_fields (hz : slice w 25 3 = 0#3) :
    formatP (opcField w).toNat (vField w) (yField w).toNat (lowField w).toNat = w := by
  have hz : w.toNat / 2 ^ 25 % 2 ^ 3 = 0 := (slice_eq_iff w 25 3 _).1 hz
  apply BitVec.eq_of_toNat_eq
  simp only [formatP, place, BitVec.toNat_ofNat, toNat_vField, opcField, yField, lowField, toNat_slice]
  have := w.isLt
  omega

/-- Where bit 24 is reserved as well, it is a zero `v` (R52). -/
theorem formatP_fields_noV (hz : slice w 24 4 = 0#4) :
    formatP (opcField w).toNat false (yField w).toNat (lowField w).toNat = w := by
  have hz : w.toNat / 2 ^ 24 % 2 ^ 4 = 0 := (slice_eq_iff w 24 4 _).1 hz
  apply BitVec.eq_of_toNat_eq
  simp only [formatP, place, BitVec.toNat_ofNat, Bool.toNat_false, opcField, yField, lowField, toNat_slice]
  have := w.isLt
  omega

theorem formatG_fields (w : CmdWord) :
    formatG (opcField w).toNat (addrField w) (heightField w).toNat (lowField w).toNat = w := by
  apply BitVec.eq_of_toNat_eq
  simp only [formatG, place, BitVec.toNat_ofNat, opcField, addrField, heightField, lowField, toNat_slice]
  have := w.isLt
  omega

theorem formatV_fields (hz : slice w 25 3 = 0#3) (hz' : slice w 0 24 = 0#24) :
    formatV (opcField w).toNat (vField w) = w := by
  have hz : w.toNat / 2 ^ 25 % 2 ^ 3 = 0 := (slice_eq_iff w 25 3 _).1 hz
  have hz' : w.toNat / 2 ^ 0 % 2 ^ 24 = 0 := (slice_eq_iff w 0 24 _).1 hz'
  apply BitVec.eq_of_toNat_eq
  simp only [formatV, place, BitVec.toNat_ofNat, toNat_vField, opcField, toNat_slice]
  have := w.isLt
  omega

theorem formatB_fields (hz : slice w 8 20 = 0#20) : formatB (opcField w).toNat (cmdField w) = w := by
  have hz : w.toNat / 2 ^ 8 % 2 ^ 20 = 0 := (slice_eq_iff w 8 20 _).1 hz
  apply BitVec.eq_of_toNat_eq
  simp only [formatB, place, BitVec.toNat_ofNat, opcField, cmdField, toNat_slice]
  have := w.isLt
  omega

theorem formatN_fields (hz : slice w 0 28 = 0#28) : formatN (opcField w).toNat = w := by
  have hz : w.toNat / 2 ^ 0 % 2 ^ 28 = 0 := (slice_eq_iff w 0 28 _).1 hz
  apply BitVec.eq_of_toNat_eq
  simp only [formatN, place, BitVec.toNat_ofNat, opcField, toNat_slice]
  have := w.isLt
  omega

/-- The operands of an instruction that a word spells fit their fields. -/
theorem Spells.wellFormed (h : Spells w i) : i.WellFormed := by
  cases h with
  | init _ => exact (wellFormed_init _ _ _).2 ⟨(lowField w).isLt, (heightField w).isLt⟩
  | locate _ _ => exact (wellFormed_locate _ _).2 ⟨(lowField w).isLt, (yField w).isLt⟩
  | setpix _ _ => exact (wellFormed_setpix _ _ _).2 ⟨(lowField w).isLt, (yField w).isLt⟩
  | getpix _ _ => exact (wellFormed_getpix _ _).2 ⟨(lowField w).isLt, (yField w).isLt⟩
  | fill _ _ _ | sendcmd _ _ | flush _ _ => rfl

/-- A word that spells an instruction is its encoding: every bit is in a field or reserved. -/
theorem Spells.encode_eq (h : Spells w i) : encode i = w := by
  cases h with
  | init hopc => simpa [encode, hopc] using formatG_fields w
  | locate hopc hz | getpix hopc hz => simpa [encode, hopc] using formatP_fields_noV hz
  | setpix hopc hz => simpa [encode, hopc] using formatP_fields hz
  | fill hopc hz hz' => simpa [encode, hopc] using formatV_fields hz hz'
  | sendcmd hopc hz => simpa [encode, hopc] using formatB_fields hz
  | flush hopc hz => simpa [encode, hopc] using formatN_fields hz

/-! ### The opcode map -/

/-- A word that spells an instruction selects its row of the opcode map (R56). -/
theorem Spells.selects_row (h : Spells w i) : ∃ r ∈ opcodeMap, r.Selects w ∧ r.mnemonic = i.mnemonic := by
  cases h with
  | init hopc => exact ⟨opcodeMap[0]'(by decide), List.getElem_mem _, (selects_init w).2 hopc, rfl⟩
  | locate hopc hz => exact ⟨opcodeMap[1]'(by decide), List.getElem_mem _, (selects_locate w).2 ⟨hopc, hz⟩, rfl⟩
  | setpix hopc hz => exact ⟨opcodeMap[2]'(by decide), List.getElem_mem _, (selects_setpix w).2 ⟨hopc, hz⟩, rfl⟩
  | getpix hopc hz => exact ⟨opcodeMap[3]'(by decide), List.getElem_mem _, (selects_getpix w).2 ⟨hopc, hz⟩, rfl⟩
  | fill hopc hz hz' => exact ⟨opcodeMap[4]'(by decide), List.getElem_mem _, (selects_fill w).2 ⟨hopc, hz, hz'⟩, rfl⟩
  | sendcmd hopc hz => exact ⟨opcodeMap[5]'(by decide), List.getElem_mem _, (selects_sendcmd w).2 ⟨hopc, hz⟩, rfl⟩
  | flush hopc hz => exact ⟨opcodeMap[6]'(by decide), List.getElem_mem _, (selects_flush w).2 ⟨hopc, hz⟩, rfl⟩

/-- A word that selects a row of the opcode map spells an instruction of that row (R56). -/
theorem spells_of_selects {r : OpcodeRow} (hr : r ∈ opcodeMap) (hs : r.Selects w) :
    ∃ i, Spells w i ∧ i.mnemonic = r.mnemonic := by
  simp only [opcodeMap, List.mem_cons, List.not_mem_nil, or_false] at hr
  rcases hr with rfl | rfl | rfl | rfl | rfl | rfl | rfl
  · exact ⟨_, .init ((selects_init w).1 hs), rfl⟩
  · obtain ⟨hopc, hz⟩ := (selects_locate w).1 hs
    exact ⟨_, .locate hopc hz, rfl⟩
  · obtain ⟨hopc, hz⟩ := (selects_setpix w).1 hs
    exact ⟨_, .setpix hopc hz, rfl⟩
  · obtain ⟨hopc, hz⟩ := (selects_getpix w).1 hs
    exact ⟨_, .getpix hopc hz, rfl⟩
  · obtain ⟨hopc, hz, hz'⟩ := (selects_fill w).1 hs
    exact ⟨_, .fill hopc hz hz', rfl⟩
  · obtain ⟨hopc, hz⟩ := (selects_sendcmd w).1 hs
    exact ⟨_, .sendcmd hopc hz, rfl⟩
  · obtain ⟨hopc, hz⟩ := (selects_flush w).1 hs
    exact ⟨_, .flush hopc hz, rfl⟩

/-- The rows of the opcode map have different mnemonics. -/
theorem opcodeMap_mnemonic_injective :
    ∀ r ∈ opcodeMap, ∀ r' ∈ opcodeMap, r.mnemonic = r'.mnemonic → r = r' := by decide

end

/-- Settles O1, format by format: a field of the encoding reads back what was placed in it. -/
theorem decodeOfEncode : Obligations.DecodeOfEncode := fun _ h => decode_encode h

/-- Settles O2, by the inversion of `decode`: a word that spells an instruction is put together from its fields alone. -/
theorem encodeOfDecode : Obligations.EncodeOfDecode := by
  intro w i h
  have hspells : Spells w i := spells_of_decode h
  exact ⟨hspells.wellFormed, hspells.encode_eq⟩

/-- Settles O3: a word selects the rows of the instructions it spells, and the decoder finds at most one of these. -/
theorem opcodeMapSelects : Obligations.OpcodeMapSelects := by
  intro w
  have hrow : ∀ i, decode w = .ok i → ∃ r ∈ opcodeMap, r.Selects w ∧ r.mnemonic = i.mnemonic :=
    fun i h => (spells_of_decode h).selects_row
  have hinstr : ∀ r ∈ opcodeMap, r.Selects w → ∃ i, decode w = .ok i ∧ i.mnemonic = r.mnemonic := by
    intro r hr hs
    obtain ⟨i, hspells, hname⟩ := spells_of_selects hr hs
    exact ⟨i, decode_of_spells hspells, hname⟩
  refine ⟨hrow, hinstr, fun r hr r' hr' hs hs' => ?_, fun hnone => ?_⟩
  · obtain ⟨i, hi, hname⟩ := hinstr r hr hs
    obtain ⟨i', hi', hname'⟩ := hinstr r' hr' hs'
    obtain rfl : i = i' := by simpa [hi] using hi'
    exact opcodeMap_mnemonic_injective r hr r' hr' (hname.symm.trans hname')
  · cases h : decode w with
    | error e => exact ⟨e, rfl⟩
    | ok i =>
      obtain ⟨r, hr, hs, _⟩ := hrow i h
      exact absurd hs (hnone r hr)

/-- Settles O5: the decoder run on seven closed words. -/
theorem sampleWordsDecode : Obligations.SampleWordsDecode := by
  unfold Obligations.SampleWordsDecode
  decide

end Sys2Proof
end

section
/-! PROOF. The bounds of the response fields (R59, R71). -/

namespace Sys2Proof.Machine

/-- The index of a pixel whose coordinates fit their fields (R59, R71). -/
theorem byteIndex_le {x y : Nat} (hx : x < 4096) (hy : y < 4096) : byteIndex x y ≤ 33272 := by
  unfold byteIndex
  omega

/-- The one bit of a mask is that of its row (R71). -/
theorem pixelMask_getLsbD_iff {y b : Nat} : (pixelMask y).getLsbD b = true ↔ b = y % 8 := by
  by_cases hb : b < 8
  · simp [pixelMask_getLsbD y b hb]
  · rw [BitVec.getLsbD_of_ge _ _ (Nat.le_of_not_lt hb)]
    simp
    omega

/-- Settles O13, by the largest coordinates a word can hold and the bit `y mod 8`. -/
theorem responseFieldsFit : Obligations.ResponseFieldsFit := by
  refine ⟨fun x y h => ?_, by decide, by decide, fun y => ⟨y % 8, Nat.mod_lt y (by decide), ?_, fun b => ?_⟩⟩
  · obtain ⟨hx, hy⟩ := (wellFormed_locate x y).1 h
    exact byteIndex_le hx hy
  · exact pixelMask_getLsbD_iff.2 rfl
  · exact pixelMask_getLsbD_iff.1

end Sys2Proof.Machine
end

section
/-! PROOF. FLUSH enters its first phase (R63, R110). -/

namespace Sys2Proof.Machine

/-- The last column and the last page of a legal geometry fit the bytes of `AW` (R63, R81). -/
theorem Cfg.Latched.lastByte_toNat {c : Cfg} {cap : Nat} (h : c.Latched cap) :
    (BitVec.ofNat 8 (c.width - 1)).toNat = c.width - 1 ∧ (BitVec.ofNat 8 (c.pages - 1)).toNat = c.pages - 1 := by
  obtain ⟨_, hwidth, hheight⟩ := h.geometry
  have hpages : c.pages = c.height / 8 := h.pages
  simp only [BitVec.toNat_ofNat]
  omega

/-- Settles O34, by the byte of `AW` that FLUSH asks for first. -/
theorem flushEntersWindowPhase : Obligations.FlushEntersWindowPhase := by
  intro s ha hc hlatched
  obtain ⟨first, rest, haw, hstart⟩ := flushStart_eq s
  obtain ⟨hwidth, hpages⟩ := hlatched.lastByte_toNat
  refine ⟨flushStart s, whenCreated_pass ha hc _, flushStart_phase s, ?_, ?_⟩
  · exact ⟨_, _, first, hwidth, hpages, by rw [flushStart_window, haw]; exact haw.symm, by rw [hstart]; rfl⟩
  · rw [hstart]
    rfl

end Sys2Proof.Machine
end

section
/-! PROOF. The form of every event a step logs (R58, R60, R62, R160). -/

namespace Sys2Proof.Machine

/-- The form of one event of the log, for the parameters of the block: what `LogForm` asks of each. -/
def EventForm (p : Config.Params) (e : Event) : Prop :=
  match e with
  | .cmd _ b0 _ _ => b0 = 0x80#8
  | .arm src dst width count =>
    src = 0 ∧ dst = p.dataRegAddr ∧ width = p.wordBits ∧ 2 ≤ count ∧ count ≤ p.maxImageLen
  | .data w => w < 2 ^ p.wordBits
  | .done => True
  | .rsp w => WellFormedResponse w

theorem logForm_iff {s : State} : LogForm s ↔ ∀ e ∈ s.log, EventForm s.params e := by
  refine forall₂_congr fun e _ => ?_
  cases e <;> rfl

/-- The events `t` has logged after those of `s` have their form. -/
def AppendsFormed (s t : State) : Prop := ∃ es, t.log = s.log ++ es ∧ ∀ e ∈ es, EventForm s.params e

section
variable {s t : State}

theorem LogForm.append (h : LogForm s) (hp : t.params = s.params) (ha : AppendsFormed s t) : LogForm t := by
  obtain ⟨es, hlog, hes⟩ := ha
  rw [logForm_iff, hp, hlog]
  intro e he
  rcases List.mem_append.1 he with he | he
  · exact logForm_iff.1 h e he
  · exact hes e he

theorem appendsFormed_nil (h : t.log = s.log) : AppendsFormed s t := ⟨[], by simp [h], by simp⟩

theorem appendsFormed_one {e : Event} (he : EventForm s.params e) (h : t.log = s.log ++ [e]) : AppendsFormed s t :=
  ⟨[e], h, by simpa using he⟩

theorem appendsFormed_two {e e' : Event} (he : EventForm s.params e) (he' : EventForm s.params e')
    (h : t.log = s.log ++ [e, e']) : AppendsFormed s t :=
  ⟨[e, e'], h, by simp [he, he']⟩

/-! ### The responses -/

/-- The status codes of R160. -/
theorem Status.code_le (st : Status) : st.code.toNat ≤ 6 := by cases st <;> decide

/-- The answer `OK` has the form of R58, whatever its result fields. -/
theorem eventForm_ok (p : Config.Params) {idx : Nat} (h : idx < 65536) (mask : Byte) (pix : Bool) :
    EventForm p (.rsp (responseWord .ok idx mask pix)) := by
  obtain ⟨hst, hz, _⟩ := fields_responseWord .ok h mask pix
  exact ⟨hz, by simp [hst, Status.code], fun hne => absurd hst hne⟩

/-- A response with zero result fields has the form of R58, whatever its status. -/
theorem eventForm_bare (p : Config.Params) (st : Status) : EventForm p (.rsp (responseWord st 0 0#8 false)) := by
  obtain ⟨hst, hz, hidx, hmask, hpix⟩ := fields_responseWord st (idx := 0) (by decide) 0#8 false
  exact ⟨hz, hst ▸ st.code_le, fun _ => ⟨BitVec.eq_of_toNat_eq hidx, hmask, hpix⟩⟩

/-- The index of an in-range pixel of a legal geometry fits the response (R59). -/
theorem Cfg.Latched.byteIndex_lt {c : Cfg} {cap x y : Nat} (h : c.Latched cap) (hr : c.InRange x y) :
    byteIndex x y < 65536 := by
  obtain ⟨_, hwidth, hheight⟩ := h.geometry
  obtain ⟨hx, hy⟩ := hr
  have := byteIndex_le (x := x) (y := y) (by omega) (by omega)
  omega

/-! ### The other events -/

/-- A word of the frame, marked or not, fits `WORD_BITS` (R62, R115). -/
theorem lt_of_mem_frameOf {w : WideWord} (hp : s.params.Legal) (hw : w ∈ frameOf s) (hpos : 1 ≤ s.cfg.imageLen) :
    w < 2 ^ s.params.wordBits := by
  obtain ⟨n, hn⟩ : ∃ n, s.cfg.imageLen = n + 1 := ⟨s.cfg.imageLen - 1, by omega⟩
  have ⟨_, hterm, hbits, _⟩ := hp
  have hbyte (b : Byte) : b.toNat < 2 ^ s.params.termBit :=
    b.isLt.trans_le (Nat.pow_le_pow_right (by decide) hterm)
  have hmark : 2 ^ s.params.termBit * 2 ≤ 2 ^ s.params.wordBits :=
    Nat.pow_le_pow_right (n := 2) (by decide) hbits
  rw [frameOf_eq hp hn] at hw
  rcases List.mem_append.1 hw with hw | hw
  · obtain ⟨i, _, rfl⟩ := List.mem_map.1 hw
    exact (hbyte (s.image.read i)).trans_le (by omega)
  · obtain rfl := List.mem_singleton.1 hw
    exact (Nat.add_lt_add_right (hbyte (s.image.read n)) _).trans_le (by omega)

/-- The image of a created block has its prefix byte and a byte at least (R14, R80). -/
theorem Cfg.Latched.two_le_imageLen {c : Cfg} {cap : Nat} (h : c.Latched cap) : 2 ≤ c.imageLen := by
  obtain ⟨hwidth, _, hheight⟩ := h.geometry
  have hpages : 1 ≤ pagesOf c.height := by unfold pagesOf; omega
  have := Nat.mul_le_mul hpages hwidth
  rw [h.imageLen, imageLenOf]
  omega

/-- A block with a FLUSH in progress has the latches of its INIT (R14, R163). -/
theorem Inv.latched_of_busy (h : Inv s) (hp : s.phase ≠ .idle) : s.cfg.Latched s.params.maxImageLen :=
  h.latched (h.busy (.inl hp))

/-- The trigger of a frame (R117). -/
theorem Inv.eventForm_arm (h : Inv s) (hp : s.phase ≠ .idle) :
    EventForm s.params (.arm 0 s.params.dataRegAddr s.params.wordBits s.cfg.imageLen) :=
  ⟨rfl, rfl, rfl, (h.latched_of_busy hp).two_le_imageLen, (h.latched_of_busy hp).fits⟩

/-- A Move writes a word of the frame (R116, R122). -/
theorem Inv.eventForm_data {i : Nat} {w : WideWord} (h : Inv s) (hp : s.phase = .completed)
    (hw : s.staging[i]? = some w) : EventForm s.params (.data w) := by
  obtain ⟨hst, _⟩ := (phaseInv_completed_iff hp).1 h.phases
  have hlen := (h.latched_of_busy (by simp [hp])).two_le_imageLen
  exact lt_of_mem_frameOf h.params (hst ▸ List.mem_of_getElem? hw) (by omega)

/-- A bus write that returned is that of a single-command frame (R60, R101). -/
theorem Inv.eventForm_cmd {r : CmdRequest} (h : Inv s) (hr : s.cmdReq = some r) (o : CmdOutcome) :
    EventForm s.params (.cmd r.addr r.b0 r.b1 o) :=
  (h.request r hr).2

/-! ### The step -/

/-- The events of an instruction: a response with its form, or none. -/
theorem Inv.exec_appendsFormed {i : Instr} (h : Inv s) (he : Machine.exec i s = .next t) : AppendsFormed s t := by
  rcases exec_next_cases he with ⟨st, _, rfl⟩ | ⟨_, _, _, _, _, _, _, ⟨_, rfl⟩ | ⟨_, rfl⟩⟩ | ⟨_, hc, hd⟩
  · exact appendsFormed_one (eventForm_bare _ st) rfl
  · exact appendsFormed_one (eventForm_bare _ _) rfl
  · exact appendsFormed_one (eventForm_bare _ _) rfl
  · cases hd with
    | locate hr => exact appendsFormed_one (eventForm_ok _ ((h.latched hc).byteIndex_lt hr) _ _) rfl
    | setpix _ _ | getpix _ _ | fill _ => exact appendsFormed_one (eventForm_ok _ (by decide) _ _) rfl
    | sendcmd => exact appendsFormed_nil rfl
    | flush => exact appendsFormed_nil (by simp)

/-- The events of every step without a reset. -/
theorem Inv.advanced_appendsFormed {inp : Inputs} (h : Inv s) (hadv : Advanced inp s t) : AppendsFormed s t := by
  cases hadv with
  | unanswered _ _ | noWord _ _ | notReady _ _ _ _ _ | noReport _ _ _ _ => exact appendsFormed_nil rfl
  | @answeredOk r hr _ =>
    by_cases hp : s.phase = .idle
    · exact appendsFormed_two (h.eventForm_cmd hr .ok) (eventForm_bare _ .ok) (by simp [hp])
    · exact appendsFormed_one (h.eventForm_cmd hr .ok) (by simp [hp])
  | @answeredError r hr _ =>
    exact appendsFormed_two (h.eventForm_cmd hr .error) (eventForm_bare _ .busError) (by simp)
  | illegal _ _ _ => exact appendsFormed_one (eventForm_bare _ _) (rejectIllegal_log _)
  | @run w rest i _ _ _ _ he => exact Inv.exec_appendsFormed (s := s.setHostWords rest) (h.congr rfl) he
  | windowByte _ _ _ | windowDone _ _ _ | stage _ _ => exact appendsFormed_nil rfl
  | arm hp _ => exact appendsFormed_one (h.eventForm_arm (by simp [hp])) (armStep_log s)
  | move hp _ _ _ _ hw => exact appendsFormed_one (h.eventForm_data hp hw) rfl
  | finish _ _ _ _ => exact appendsFormed_one (e := .done) trivial rfl
  | returnIdle _ _ _ _ => exact appendsFormed_one (eventForm_bare _ .ok) rfl

end

/-- Settles O54, by the events of each step: a reset empties the log, and any other step appends events with their
form. -/
theorem logKeepsItsForm : Obligations.LogKeepsItsForm := by
  intro s t h hform hstep
  rcases step_next_cases hstep with ⟨_, rfl⟩ | ⟨_, hadv⟩
  · exact logForm_iff.2 (by simp)
  · have hsampled : LogForm s.afterSample := hform
    exact hsampled.append hadv.keeps_params (Inv.advanced_appendsFormed (h.congr rfl) hadv)

end Sys2Proof.Machine
end

section
/-! PROOF. The pixel-address mapping: its inverse, its range, and which geometries hold every index it gives (R71 to
R76). -/

namespace Sys2Proof.Machine

section
variable {width height x y : Nat}

/-- The bits of the bytes from 1 on and the pixels of rows below 64 name each other (R76). -/
theorem byteIndex_bitPosition_iff {i b : Nat} (hi : 1 ≤ i) (hb : b < 8) (hy : y < 64) :
    (byteIndex x y = i ∧ bitPosition y = b) ↔ (x = (i - 1) / 8 ∧ y = 8 * ((i - 1) % 8) + b) := by
  unfold byteIndex bitPosition
  omega

/-- No index of the mapping is 0, which holds the control byte (R16, R72). -/
theorem one_le_byteIndex (x y : Nat) : 1 ≤ byteIndex x y := Nat.le_add_left 1 _

/-- A legal height is a whole number of pages, from 1 to 8 (R4, R81). -/
theorem GeometryOk.height_eq (h : GeometryOk width height) : ∃ pages, height = 8 * pages ∧ 1 ≤ pages ∧ pages ≤ 8 := by
  obtain ⟨_, _, hheight⟩ := h
  exact ⟨height / 8, by omega⟩

/-- The largest index of a geometry is that of its last pixel (R72). -/
theorem byteIndex_le_last (hheight : 8 ∣ height) (hx : x < width) (hy : y < height) :
    byteIndex x y ≤ height / 8 + 8 * (width - 1) := by
  unfold byteIndex
  omega

/-- Exactly the pixels of the last page of the last column have the largest index (R72). -/
theorem byteIndex_eq_last_iff (hheight : 8 ∣ height) (hx : x < width) (hy : y < height) :
    byteIndex x y = height / 8 + 8 * (width - 1) ↔ x = width - 1 ∧ height - 8 ≤ y := by
  unfold byteIndex
  omega

/-- A geometry is fully addressable when its largest index is in-image (R74). -/
theorem fullyAddressable_iff_last (addr : DevAddr) (h : GeometryOk width height) :
    (Cfg.ofOperands width height addr).FullyAddressable ↔
      height / 8 + 8 * (width - 1) < imageLenOf width height := by
  obtain ⟨pages, hpages, hpos, _⟩ := h.height_eq
  have hheight : 8 ∣ height := ⟨pages, hpages⟩
  have hx : width - 1 < width := Nat.sub_lt h.1 Nat.one_pos
  have hy : height - 8 < height := by omega
  constructor
  · intro hfull
    rw [← (byteIndex_eq_last_iff hheight hx hy).2 ⟨rfl, le_rfl⟩]
    exact hfull _ _ ⟨hx, hy⟩
  · exact fun hlast x y hr => (byteIndex_le_last hheight hr.1 hr.2).trans_lt hlast

end

/-- Settles O16: only the last pixel has to be compared with the length, and there the stride 8 of the mapping meets the
page count as the stride of the image. -/
theorem fullyAddressableExactly : Obligations.FullyAddressableExactly := by
  refine ⟨fun width height addr hg => ?_, fun width i b hi hlast hb => ?_, fun width addr => ?_⟩
  · obtain ⟨pages, rfl, _, hmax⟩ := hg.height_eq
    obtain ⟨n, rfl⟩ := Nat.exists_eq_add_of_le' hg.1
    have hstride : 8 * n ≤ pages * n ↔ 8 ≤ pages ∨ n = 0 := by
      rcases n.eq_zero_or_pos with rfl | hn
      · simp
      · simp [Nat.mul_le_mul_right_iff hn, hn.ne']
    rw [fullyAddressable_iff_last addr hg, imageLenOf, pagesOf, Nat.mul_div_cancel_left _ (by decide), Nat.mul_succ]
    omega
  · have hy : 8 * ((i - 1) % 8) + b < 64 := by omega
    obtain ⟨hindex, hbit⟩ := (byteIndex_bitPosition_iff hi hb hy).2 ⟨rfl, rfl⟩
    exact ⟨(i - 1) / 8, _, by omega, hy, hindex, hbit⟩
  · rfl

/-- Settles O14, by the pixels of the first page of the first column and of the last page of the last. -/
theorem locateRange : Obligations.LocateRange := by
  intro width height x y hg hx hy
  obtain ⟨pages, hpages, _⟩ := hg.height_eq
  have hheight : 8 ∣ height := ⟨pages, hpages⟩
  have hpos := one_le_byteIndex x y
  refine ⟨Nat.le_of_lt_succ (Nat.mod_lt y (by decide)), hpos, byteIndex_le_last hheight hx hy,
    Nat.one_le_iff_ne_zero.1 hpos, ?_, byteIndex_eq_last_iff hheight hx hy⟩
  unfold byteIndex
  omega

/-- Settles O15: two pixels with the same index and bit are both the one pixel that maps there; the collision of R73 needs
row 64, which no legal geometry has. -/
theorem locateInjective : Obligations.LocateInjective := by
  refine ⟨fun pages width x y x' y' hpages _ _ hy hy' hindex hbit => ?_, by decide, fun width pages hpages hg => ?_⟩
  · have hb : bitPosition y' < 8 := Nat.mod_lt y' (by decide)
    obtain ⟨hx1, hy1⟩ := (byteIndex_bitPosition_iff (one_le_byteIndex x' y') hb (by omega)).1 ⟨hindex, hbit⟩
    obtain ⟨hx2, hy2⟩ := (byteIndex_bitPosition_iff (one_le_byteIndex x' y') hb (by omega)).1 ⟨rfl, rfl⟩
    exact ⟨hx1.trans hx2.symm, hy1.trans hy2.symm⟩
  · obtain ⟨pages', heq, _, hmax⟩ := hg.height_eq
    omega

/-- Settles O17, by the inverse of the mapping. -/
theorem locateInverse : Obligations.LocateInverse := fun _ _ _ _ hi hb hy => byteIndex_bitPosition_iff hi hb hy

end Sys2Proof.Machine
end

section
/-! PROOF. LOCATE in range, and the three pixel operations out of it (R70, R75). -/

namespace Sys2Proof.Machine

section
variable {s : State} {x y : Nat}

/-- LOCATE of an in-range pixel on a created block only answers (R70). -/
theorem execLocate_of_inRange (ha : s.allocFailed = false) (hc : s.created = true) (hr : s.cfg.InRange x y) :
    execLocate x y s = .next (respond .ok (byteIndex x y) (pixelMask y) false s) := by
  rw [execLocate, whenCreated_pass ha hc, if_pos hr, answer]

/-- LOCATE of any other pixel is a fault of the model (R75, U1). -/
theorem execLocate_of_not_inRange (ha : s.allocFailed = false) (hc : s.created = true) (hr : ¬s.cfg.InRange x y) :
    execLocate x y s = .fault .pixelOutOfRange := by
  rw [execLocate, whenCreated_pass ha hc, if_neg hr]

/-- An access of a pixel that is not in-range is a fault of the model, whatever the operation would have done (R75,
U1). -/
theorem withPixel_of_not_inRange (hr : ¬s.cfg.InRange x y) (k : Host.Outcome State Fault Refusal) :
    withPixel s x y k = .fault .pixelOutOfRange := if_neg hr

end

/-- Settles O12, by the answer of LOCATE, whose index fits the response for every pixel that has a command word. -/
theorem locateAnswers : Obligations.LocateAnswers := by
  intro s x y ha hc hwf hx hy
  obtain ⟨hfx, hfy⟩ := (wellFormed_locate x y).1 hwf
  have hindex : byteIndex x y < 65536 := (byteIndex_le hfx hfy).trans_lt (by decide)
  exact ⟨_, execLocate_of_inRange ha hc ⟨hx, hy⟩, respond_answers s .ok hindex (pixelMask y) false, rfl⟩

/-- Settles O18: on a created block the range check is the first that can fire. -/
theorem outOfRangeFaults : Obligations.OutOfRangeFaults := by
  intro s x y v ha hc hout
  have hr : ¬s.cfg.InRange x y := by
    rintro ⟨hx, hy⟩
    omega
  exact ⟨execLocate_of_not_inRange ha hc hr, (whenCreated_pass ha hc _).trans (withPixel_of_not_inRange hr _),
    (whenCreated_pass ha hc _).trans (withPixel_of_not_inRange hr _)⟩

end Sys2Proof.Machine
end

section
/-! PROOF. The in-image bytes that belong to no pixel: INIT clears them, and no pixel operation reaches them (R76). -/

namespace Sys2Proof.Machine

/-- FILL leaves every byte that none of its pixels names as it was (R86). -/
theorem read_fillPixels_other {len i : Nat} {v : Bool} {l : List (Nat × Nat)} {m m' : Memory} (h : m.wf)
    (hf : fillPixels len v l m = some m') (hi : ∀ p ∈ l, i ≠ byteIndex p.1 p.2) : m'.read i = m.read i := by
  obtain ⟨_, hbits⟩ := read_fillPixels h hf
  refine BitVec.eq_of_getLsbD_eq fun b hb => ?_
  rw [hbits i b hb, if_neg]
  rintro ⟨p, hp, hindex, _⟩
  exact hi p hp hindex

/-- Within a column the byte of a pixel is one of the first `pages`: no pixel of a legal geometry has a gap byte (R71,
R76). -/
theorem Cfg.Latched.byteIndex_ne_gap {c : Cfg} {cap x y i : Nat} (h : c.Latched cap) (hr : c.InRange x y)
    (hi : c.pages ≤ (i - 1) % 8) : i ≠ byteIndex x y := by
  obtain ⟨pages, hheight, _⟩ := h.geometry.height_eq
  have hpages : c.pages = c.height / 8 := h.pages
  have hy : y < c.height := hr.2
  unfold byteIndex
  omega

section
variable {s t : State}

/-- Gap bytes stay zero where the latches are kept and no gap byte is written. -/
theorem GapBytesZero.of_gaps (h : GapBytesZero s) (hcreated : t.created = s.created) (hcfg : t.cfg = s.cfg)
    (hgaps : ∀ i, s.cfg.pages ≤ (i - 1) % 8 → t.image.read i = s.image.read i) : GapBytesZero t := by
  intro hc i hpos hlen hgap
  rw [hcfg] at hlen hgap
  rw [hgaps i hgap]
  exact h (hcreated ▸ hc) i hpos hlen hgap

/-- A move that keeps the image and the latches keeps the gap bytes. -/
theorem GapBytesZero.keepsImage (h : GapBytesZero s) (k : KeepsImage s t) : GapBytesZero t :=
  h.of_gaps k.created k.cfg fun i _ => by rw [k.image]

/-- Nothing is asked of a block that is not created. -/
theorem gapBytesZero_of_not_created (hc : s.created = false) : GapBytesZero s := by
  intro h
  simp [hc] at h

/-- A successful INIT leaves every byte from 1 on zero (R80). -/
theorem gapBytesZero_createImage (hwf : s.image.wf) (width height : Nat) (addr : DevAddr) :
    GapBytesZero (createImage width height addr s) := by
  intro _ i hpos hlen _
  have hlen : i < imageLenOf width height := hlen
  rw [createImage_image, read_clearedImage hwf, if_neg (by omega), if_pos hlen]
  rfl

/-- No operation on a created block writes a gap byte: the pixel operations write bytes of pixels alone (R76). -/
theorem GapBytesZero.done {i : Instr} (h : GapBytesZero s) (hs : Inv s) (hc : s.created = true) (hd : Done s i t) :
    GapBytesZero t := by
  have hlatched := hs.latched hc
  cases hd with
  | locate _ | getpix _ _ | sendcmd => exact h.keepsImage ⟨rfl, rfl, rfl, rfl, rfl⟩
  | flush => exact h.keepsImage ⟨by simp, by simp, by simp, by simp, by simp⟩
  | setpix hr _ =>
    exact h.of_gaps rfl rfl fun _ hgap =>
      read_writePixel_other hs.canonical _ _ _ (hlatched.byteIndex_ne_gap hr hgap)
  | fill hf =>
    exact h.of_gaps rfl rfl fun _ hgap =>
      read_fillPixels_other hs.canonical hf fun _ hp => hlatched.byteIndex_ne_gap (mem_pixelDomain.1 hp) hgap

/-- Every instruction keeps the gap bytes. -/
theorem GapBytesZero.exec {i : Instr} (h : GapBytesZero s) (hs : Inv s) (he : exec i s = .next t) :
    GapBytesZero t := by
  rcases exec_next_cases he with ⟨_, _, rfl⟩ | ⟨_, _, _, _, _, hc, _, ⟨_, rfl⟩ | ⟨_, rfl⟩⟩ | ⟨_, hc, hd⟩
  · exact h.keepsImage ⟨rfl, rfl, rfl, rfl, rfl⟩
  · exact gapBytesZero_of_not_created hc
  · exact gapBytesZero_createImage hs.canonical _ _ _
  · exact h.done hs hc hd

/-- Every step without a reset keeps the gap bytes: only an instruction writes the image. -/
theorem GapBytesZero.advanced {inp : Inputs} (h : GapBytesZero s) (hs : Inv s) (hadv : Advanced inp s t) :
    GapBytesZero t := by
  cases hadv with
  | @run w rest i _ _ _ _ he => exact GapBytesZero.exec (s := s.setHostWords rest) h (hs.congr rfl) he
  | _ => exact h.keepsImage ⟨by simp, by simp, by simp, by simp, by simp⟩

end

/-- Settles O55, by the inversion of `step`: a reset leaves a block that is not created, and no other step writes a gap
byte but INIT, which clears it. -/
theorem gapBytesStayZero : Obligations.GapBytesStayZero := by
  intro s t hs h hstep
  rcases step_next_cases hstep with ⟨_, rfl⟩ | ⟨_, hadv⟩
  · exact gapBytesZero_of_not_created rfl
  · exact GapBytesZero.advanced (s := s.afterSample) h (hs.congr rfl) hadv

end Sys2Proof.Machine
end

section
/-! PROOF. The three ends of an INIT that no earlier one forestalls (R80, R81, R165). -/

namespace Sys2Proof.Machine

section
variable {s : State} {width height : Nat} {addr : DevAddr}

/-- Before a successful INIT the common checks let INIT through. -/
theorem whenNotCreated_pass (ha : s.allocFailed = false) (hc : s.created = false)
    (k : Host.Outcome State Fault Refusal) : whenNotCreated s k = k := by
  simp [whenNotCreated, ha, hc]

/-- A geometry that is not legal is refused before anything is written (R81). -/
theorem execInit_of_not_geometryOk (ha : s.allocFailed = false) (hc : s.created = false)
    (hg : ¬GeometryOk width height) : execInit width height addr s = .next (raise .badGeometry s) := by
  rw [execInit, whenNotCreated_pass ha hc, if_neg hg]

/-- A legal geometry whose image does not fit latches the failure alone (R161). -/
theorem execInit_of_not_fits (ha : s.allocFailed = false) (hc : s.created = false) (hg : GeometryOk width height)
    (hfit : s.params.maxImageLen < imageLenOf width height) :
    execInit width height addr s = .next (raise .allocFail (s.setAllocFailed true)) := by
  rw [execInit, whenNotCreated_pass ha hc, if_pos hg, if_pos hfit]

/-- A legal geometry whose image fits creates the block (R80). -/
theorem execInit_of_fits (ha : s.allocFailed = false) (hc : s.created = false) (hg : GeometryOk width height)
    (hfit : imageLenOf width height ≤ s.params.maxImageLen) :
    execInit width height addr s = .next (respond .ok 0 0#8 false (createImage width height addr s)) := by
  rw [execInit, whenNotCreated_pass ha hc, if_pos hg, if_neg (Nat.not_lt.2 hfit), answer]

/-- An answer after a change that logs nothing is an answer of the whole operation (R8, R58). -/
theorem Answers.of_log_eq {u t : State} {st : Status} {idx : Nat} {mask : Byte} {pix : Bool}
    (h : Answers u t st idx mask pix) (hlog : u.log = s.log) : Answers s t st idx mask pix := by
  rwa [Answers, hlog] at h

end

/-- Settles O19, by the three ends of INIT and the bytes of the image it leaves. -/
theorem initCreates : Obligations.InitCreates := by
  intro s width height addr hwf ha hc
  refine ⟨fun hg => ?_, fun hg hfit => ?_, fun hg hfit => ?_⟩
  · exact ⟨_, execInit_of_not_geometryOk ha hc hg, raise_answers s _, rfl⟩
  · exact ⟨_, execInit_of_not_fits ha hc hg hfit, (raise_answers _ _).of_log_eq rfl, rfl, rfl⟩
  · have hread := read_clearedImage hwf (imageLenOf width height)
    refine ⟨_, execInit_of_fits ha hc hg hfit, (respond_answers _ .ok (by decide) _ _).of_log_eq rfl, rfl, rfl,
      wf_clearedImage hwf _, hread 0, fun i hpos hlt => ?_, fun i hge => ?_, rfl⟩
    · exact (hread i).trans ((if_neg (by omega)).trans (if_pos hlt))
    · exact (hread i).trans ((if_neg (by omega)).trans (if_neg (Nat.not_lt.2 hge)))

/-- Settles O21: a refused INIT leaves everything a later one depends on as it was. -/
theorem initBadGeometry : Obligations.InitBadGeometry := by
  intro s width height addr ha hc hbad
  have hg : ¬GeometryOk width height := by
    rintro ⟨hpos, hmax, hheight⟩
    omega
  refine ⟨_, execInit_of_not_geometryOk ha hc hg, raise_answers s _, rfl, fun width' height' addr' hg' hfit => ?_⟩
  exact ⟨_, execInit_of_fits (s := raise .badGeometry s) ha hc hg' hfit,
    (respond_answers _ .ok (by decide) _ _).of_log_eq rfl, rfl⟩

end Sys2Proof.Machine
end

section
/-! PROOF. SETPIX and GETPIX of a pixel that is in-image: the bit they write and read (R83, R85, R87). -/

namespace Sys2Proof.Machine

section
variable {s : State} {m : Memory} {x y x' y' : Nat} {v : Bool}

/-- The value of a pixel is one bit of one byte (R85). -/
theorem readPixel_eq_getLsbD : readPixel m x y = (m.read (byteIndex x y)).getLsbD (bitPosition y) :=
  testBits_pixelMask _ y

/-- A pixel after a pixel write: the value written where both name the same bit, and otherwise as before (R87). -/
theorem readPixel_writePixel (h : m.wf) (x y : Nat) (v : Bool) (x' y' : Nat) :
    readPixel (writePixel m x y v) x' y' =
      if byteIndex x' y' = byteIndex x y ∧ bitPosition y' = bitPosition y then v else readPixel m x' y' := by
  rw [readPixel_eq_getLsbD, readPixel_eq_getLsbD]
  exact read_writePixel h x y v _ _ (Nat.mod_lt y' (by decide))

/-- Writing the value a pixel has gives the same canonical image (R83). -/
theorem writePixel_readPixel (h : m.wf) : writePixel m x y (readPixel m x y) = m := by
  refine Memory.eq_of_read_eq (wf_writePixel h x y _) h fun i => BitVec.eq_of_getLsbD_eq fun b hb => ?_
  rw [read_writePixel h x y _ i b hb]
  split
  next hpixel =>
    obtain ⟨rfl, rfl⟩ := hpixel
    exact readPixel_eq_getLsbD
  next => rfl

/-- Pixels of rows below 64 that name the same bit are the same pixel (R73). -/
theorem pixel_eq_of_same_bit (hy : y < 64) (hy' : y' < 64) (hindex : byteIndex x' y' = byteIndex x y)
    (hbit : bitPosition y' = bitPosition y) : x' = x ∧ y' = y := by
  have hb : bitPosition y < 8 := Nat.mod_lt y (by decide)
  obtain ⟨hx1, hy1⟩ := (byteIndex_bitPosition_iff (one_le_byteIndex x y) hb hy').1 ⟨hindex, hbit⟩
  obtain ⟨hx2, hy2⟩ := (byteIndex_bitPosition_iff (one_le_byteIndex x y) hb hy).1 ⟨rfl, rfl⟩
  exact ⟨hx1.trans hx2.symm, hy1.trans hy2.symm⟩

/-- An access of an in-range, in-image pixel goes through. -/
theorem withPixel_of_inImage (hr : s.cfg.InRange x y) (hi : s.cfg.InImage (byteIndex x y))
    (k : Host.Outcome State Fault Refusal) : withPixel s x y k = k := by
  rw [withPixel, if_pos hr, if_pos hi]

/-- An access of an in-range pixel that is not in-image is a fault of the model, whatever the operation would have done
(R84, U2). -/
theorem withPixel_of_not_inImage (hr : s.cfg.InRange x y) (hi : ¬s.cfg.InImage (byteIndex x y))
    (k : Host.Outcome State Fault Refusal) : withPixel s x y k = .fault .pixelNotInImage := by
  rw [withPixel, if_pos hr, if_neg hi]

/-- SETPIX of an in-range, in-image pixel on a created block writes the pixel and answers (R83). -/
theorem execSetpix_of_inImage (ha : s.allocFailed = false) (hc : s.created = true) (hr : s.cfg.InRange x y)
    (hi : s.cfg.InImage (byteIndex x y)) :
    execSetpix x y v s = .next (respond .ok 0 0#8 false (s.setImage (writePixel s.image x y v))) := by
  rw [execSetpix, whenCreated_pass ha hc, withPixel_of_inImage hr hi, answer]

/-- GETPIX of an in-range, in-image pixel on a created block only answers (R85). -/
theorem execGetpix_of_inImage (ha : s.allocFailed = false) (hc : s.created = true) (hr : s.cfg.InRange x y)
    (hi : s.cfg.InImage (byteIndex x y)) :
    execGetpix x y s = .next (respond .ok 0 0#8 (readPixel s.image x y) s) := by
  rw [execGetpix, whenCreated_pass ha hc, withPixel_of_inImage hr hi, answer]

end

/-- Settles O23, by what a pixel write does to every bit of every byte. -/
theorem setpixChangesOneBit : Obligations.SetpixChangesOneBit := by
  intro s x y v hwf ha hc hx hy hi
  have hbits := read_writePixel hwf x y v
  refine ⟨_, execSetpix_of_inImage ha hc ⟨hx, hy⟩ hi, (respond_answers _ .ok (by decide) _ _).of_log_eq rfl,
    wf_writePixel hwf x y v, ?_, fun b hb hne => ?_, fun i hne => read_writePixel_other hwf x y v hne, rfl⟩
  · exact (hbits _ _ (Nat.mod_lt y (by decide))).trans (if_pos ⟨rfl, rfl⟩)
  · exact (hbits _ b hb).trans (if_neg fun hpixel => hne hpixel.2)

/-- Settles O24: a SETPIX that is refused writes nothing, and one that runs writes the value the pixel has. -/
theorem setpixIdempotent : Obligations.SetpixIdempotent := by
  intro s t x y v hwf hv he
  rcases exec_next_cases he with ⟨_, _, rfl⟩ | ⟨_, _, _, hinit, _⟩ | ⟨_, _, hd⟩
  · rfl
  · nomatch hinit
  · cases hd with
    | setpix _ _ =>
      have hpixel : readPixel s.image x y = v := readPixel_eq_getLsbD.trans hv
      subst hpixel
      exact writePixel_readPixel hwf

/-- Settles O25, by the bit a pixel query reads. -/
theorem getpixAnswers : Obligations.GetpixAnswers := by
  intro s x y ha hc hx hy hi
  refine ⟨_, execGetpix_of_inImage ha hc ⟨hx, hy⟩ hi, ?_, rfl⟩
  have hpixel : readPixel s.image x y = (s.image.read (y / 8 + x * 8 + 1)).getLsbD (y % 8) := readPixel_eq_getLsbD
  rw [← hpixel]
  exact respond_answers s .ok (by decide) _ _

/-- Settles O26: SETPIX changes the bit of its own pixel, and no other pixel of a row below 64 has that bit. -/
theorem getpixAfterSetpix : Obligations.GetpixAfterSetpix := by
  intro s x y v hwf ha hc hheight hr hi
  have hread := readPixel_writePixel hwf x y v
  refine ⟨_, execSetpix_of_inImage ha hc hr hi, ?_, fun x' y' hr' hi' hne => ?_⟩
  · refine ⟨_, execGetpix_of_inImage ha hc hr hi, ?_⟩
    have hsame := (hread x y).trans (if_pos ⟨rfl, rfl⟩)
    rw [respond_image, State.setImage_image, hsame]
    exact respond_answers _ .ok (by decide) _ _
  · refine ⟨_, _, execGetpix_of_inImage ha hc hr' hi', respond_answers _ .ok (by decide) _ _, ?_⟩
    refine (hread x' y').trans ((if_neg ?_).trans readPixel_eq_getLsbD)
    rintro ⟨hindex, hbit⟩
    have hsame := pixel_eq_of_same_bit (hr.2.trans_le hheight) (hr'.2.trans_le hheight) hindex hbit
    omega

end Sys2Proof.Machine
end

section
/-! PROOF. FILL: when it reaches every pixel of its geometry, and the image it then leaves (R84, R86, R88). -/

namespace Sys2Proof.Machine

section
variable {s : State} {m : Memory} {v : Bool}

/-- FILL reaches every pixel exactly in a fully addressable geometry (R84, R86). -/
theorem fillPixels_pixelDomain_isSome {c : Cfg} :
    (fillPixels c.imageLen v (pixelDomain c.width c.height) m).isSome = true ↔ c.FullyAddressable := by
  rw [fillPixels_isSome]
  exact ⟨fun h x y hr => h (x, y) (mem_pixelDomain.2 hr), fun h p hp => h p.1 p.2 (mem_pixelDomain.1 hp)⟩

/-- FILL on a created block whose geometry is fully addressable writes every pixel and answers (R86). -/
theorem execFill_of_fullyAddressable (ha : s.allocFailed = false) (hc : s.created = true)
    (hfull : s.cfg.FullyAddressable) :
    ∃ m, fillPixels s.cfg.imageLen v (pixelDomain s.cfg.width s.cfg.height) s.image = some m ∧
      execFill v s = .next (respond .ok 0 0#8 false (s.setImage m)) := by
  obtain ⟨m, hm⟩ := Option.isSome_iff_exists.1 (fillPixels_pixelDomain_isSome (v := v) (m := s.image) |>.2 hfull)
  refine ⟨m, hm, ?_⟩
  rw [execFill, whenCreated_pass ha hc, hm]
  rfl

/-- FILL in any other geometry is a fault of the model (R84, R86, U2). -/
theorem execFill_of_not_fullyAddressable (ha : s.allocFailed = false) (hc : s.created = true)
    (hfull : ¬s.cfg.FullyAddressable) : execFill v s = .fault .pixelNotInImage := by
  have hnone := Option.not_isSome_iff_eq_none.1 (mt (fillPixels_pixelDomain_isSome (v := v) (m := s.image)).1 hfull)
  rw [execFill, whenCreated_pass ha hc, hnone]

/-- Every pixel of its list has the value of the FILL afterwards (R86). -/
theorem readPixel_fillPixels_of_mem {len x y : Nat} {l : List (Nat × Nat)} {m' : Memory} (h : m.wf)
    (hf : fillPixels len v l m = some m') (hp : (x, y) ∈ l) : readPixel m' x y = v := by
  obtain ⟨_, hbits⟩ := read_fillPixels h hf
  exact readPixel_eq_getLsbD.trans ((hbits _ _ (Nat.mod_lt y (by decide))).trans (if_pos ⟨(x, y), hp, rfl, rfl⟩))

/-- What FILL leaves depends on the set of its pixels alone: a pixel set twice, or in another order, is set all the same
(R86, D18). -/
theorem fillPixels_congr {len : Nat} {l l' : List (Nat × Nat)} (h : m.wf) (hl : ∀ p, p ∈ l ↔ p ∈ l') :
    fillPixels len v l m = fillPixels len v l' m := by
  have hsome : (fillPixels len v l m).isSome = true ↔ (fillPixels len v l' m).isSome = true := by
    simp only [fillPixels_isSome, hl]
  cases e : fillPixels len v l m with
  | none =>
    have hnone : fillPixels len v l' m = none := by simpa [e] using hsome
    exact hnone.symm
  | some n =>
    obtain ⟨n', e'⟩ := Option.isSome_iff_exists.1 (hsome.1 (by simp [e]))
    obtain ⟨hw, hbits⟩ := read_fillPixels h e
    obtain ⟨hw', hbits'⟩ := read_fillPixels h e'
    have hn : n = n' := Memory.eq_of_read_eq hw hw' fun i => BitVec.eq_of_getLsbD_eq fun b hb => by
      rw [hbits i b hb, hbits' i b hb]
      simp only [hl]
    rw [e', hn]

/-- A geometry of 8 pages is fully addressable (R74). -/
theorem fullyAddressable_ofOperands_64 (width : Nat) (addr : DevAddr) :
    (Cfg.ofOperands width 64 addr).FullyAddressable := by
  intro x y hr
  have hx : x < width := hr.1
  have hy : y < 64 := hr.2
  show y / 8 + x * 8 + 1 < 8 * width + 1
  omega

end

/-- Settles O27: a pixel that is not in-image stops an access of it, and FILL because the geometry is not fully
addressable. -/
theorem notInImageFaults : Obligations.NotInImageFaults := by
  intro s x y v ha hc hx hy hlen
  have hr : s.cfg.InRange x y := ⟨hx, hy⟩
  have hi : ¬s.cfg.InImage (byteIndex x y) := Nat.not_lt.2 hlen
  exact ⟨(whenCreated_pass ha hc _).trans (withPixel_of_not_inImage hr hi _),
    (whenCreated_pass ha hc _).trans (withPixel_of_not_inImage hr hi _),
    execFill_of_not_fullyAddressable ha hc fun hfull => hi (hfull x y hr)⟩

/-- Settles O28, by what FILL does to every bit of every byte. -/
theorem fillSetsEveryPixel : Obligations.FillSetsEveryPixel := by
  intro s v hwf ha hc hfull
  obtain ⟨m, hm, he⟩ := execFill_of_fullyAddressable (v := v) ha hc hfull
  obtain ⟨hw, hbits⟩ := read_fillPixels hwf hm
  refine ⟨_, he, (respond_answers _ .ok (by decide) _ _).of_log_eq rfl, hw, fun x y hx hy => ?_,
    fun i b hb hno => ?_, ?_, rfl⟩
  · exact readPixel_eq_getLsbD.symm.trans (readPixel_fillPixels_of_mem hwf hm (mem_pixelDomain.2 ⟨hx, hy⟩))
  · refine (hbits i b hb).trans (if_neg ?_)
    rintro ⟨⟨x, y⟩, hp, hbit⟩
    obtain ⟨hx, hy⟩ := mem_pixelDomain.1 hp
    exact hno x y hx hy hbit
  · exact read_fillPixels_other hwf hm fun p _ => Nat.ne_of_lt (one_le_byteIndex p.1 p.2)

/-- Settles O29: with 8 pages every bit of every byte from 1 on is the bit of a pixel. -/
theorem fillWholeBytes : Obligations.FillWholeBytes := by
  intro s v width addr hwf ha hc hcfg
  obtain ⟨t, he, _, _, hpixels, _, hzero, _⟩ :=
    fillSetsEveryPixel s v hwf ha hc (hcfg ▸ fullyAddressable_ofOperands_64 width addr)
  refine ⟨t, he, hzero, fun i hpos hlt => BitVec.eq_of_getLsbD_eq fun b hb => ?_⟩
  rw [hcfg] at hpixels hlt
  obtain ⟨x, y, hx, hy, rfl, rfl⟩ := fullyAddressableExactly.2.1 width i b hpos (Nat.le_of_lt_succ hlt) hb
  refine (hpixels x y hx hy).trans ?_
  cases v
  · simp
  · have hones : ∀ k < 8, (0xFF#8).getLsbD k = true := by decide
    exact (hones _ hb).symm

/-- Settles O30: lists in another order have the same pixels. -/
theorem fillOrderIrrelevant : Obligations.FillOrderIrrelevant :=
  fun _ _ _ _ _ _ hwf hl => fillPixels_congr hwf fun _ => hl.mem_iff

end Sys2Proof.Machine
end

section
/-! PROOF. A host that plots: each command is answered in the step that takes it, and the image left is that of the same
pixels set in one operation (R83, R86, R149). -/

namespace Sys2Proof.Machine

section
variable {s : State} {v : Bool}

/-- A created block has not failed to allocate (R161). -/
theorem Inv.not_allocFailed (h : Inv s) (hc : s.created = true) : s.allocFailed = false := by
  by_contra hfail
  simp [h.fatal (by simpa using hfail)] at hc

/-- A ready block runs the command of a host on its operands as integers, whether or not they fit a word (R149, log
entry 21). -/
theorem State.Accepts.issue_eq_exec (h : s.Accepts) (i : Instr) : issue i s = exec i s.afterSample := by
  by_cases hi : i.WellFormed
  · rw [issue_well_formed hi h, runWord, decode_encode hi]
  · exact issue_ill_formed hi s

/-- No reset in store stays so as the inputs are used up. -/
theorem NoReset.afterSample (h : NoReset s) : NoReset s.afterSample := fun inp hinp => h inp (List.mem_of_mem_tail hinp)

/-- A command that the step taking it answers with `OK` lets the host go on (R149, R184). -/
theorem runCommand_of_exec_ok {i : Instr} {u : State} {idx : Nat} {mask : Byte} {pix : Bool} (h : s.Accepts)
    (he : exec i s.afterSample = .next (respond .ok idx mask pix u)) (hidx : idx < 65536) (hlog : u.log = s.log)
    (ok : State → HostRun) : runCommand i ok 1 s = ok (respond .ok idx mask pix u) := by
  rw [runCommand_accepts h, h.issue_eq_exec, he, observe_respond s u hlog,
    if_pos (fields_responseWord .ok hidx mask pix).1]

/-- Plotting legal pixels leaves the image that setting them in one operation leaves (R83, R86). -/
theorem runHost_plot {l : List (Nat × Nat)} {m : Memory} (hs : Inv s) (hready : s.Ready) (hc : s.created = true)
    (hn : NoReset s) (hr : ∀ p ∈ l, s.cfg.InRange p.1 p.2) (hm : fillPixels s.cfg.imageLen v l s.image = some m) :
    ∃ t, runHost 1 (plot v l) s = .finished t ∧ t.Ready ∧ t.cfg = s.cfg ∧ t.hostWords = s.hostWords ∧
      t.image = m := by
  induction l generalizing s with
  | nil => exact ⟨s, rfl, hready, rfl, rfl, Option.some.inj hm⟩
  | cons p l ih =>
    obtain ⟨x, y⟩ := p
    obtain ⟨hrp, hrl⟩ := List.forall_mem_cons.1 hr
    simp only [fillPixels] at hm
    split at hm
    next hi =>
      have ha : s.allocFailed = false := hs.not_allocFailed hc
      have he : exec (.setpix x y v) s.afterSample = _ := execSetpix_of_inImage ha hc hrp hi
      have hsampled : Inv s.afterSample := hs.congr rfl
      obtain ⟨t, hrun, ht⟩ := ih (hsampled.exec hready he) hready hc hn.afterSample hrl hm
      exact ⟨t, (runCommand_of_exec_ok ⟨hready, hn.sampled⟩ he (by decide) rfl _).trans hrun, ht⟩
    next => nomatch hm

end

/-- Settles O59: every pixel plotted is one of those set by the same list in one operation. -/
theorem plotRunsToItsEnd : Obligations.PlotRunsToItsEnd := by
  intro s v l hs hready hc hn hl
  obtain ⟨m, hm⟩ := Option.isSome_iff_exists.1
    ((fillPixels_isSome (v := v) (m := s.image)).2 fun p hp => (hl p hp).2)
  obtain ⟨t, hrun, htready, hcfg, hwords, rfl⟩ := runHost_plot hs hready hc hn (fun p hp => (hl p hp).1) hm
  exact ⟨t, hrun, htready, hcfg, hwords, fun _ hp => readPixel_fillPixels_of_mem hs.canonical hm hp⟩

end Sys2Proof.Machine
end

section
/-! PROOF. The command channel: SENDCMD and its answer, and a bus write that is never answered (R100 to R103). -/

namespace Sys2Proof.Machine

section
variable {s t : State} {r : CmdRequest} {cmd : Byte} {rest : List CmdWord}

/-- While a bus write is outstanding the step is the command channel's (R103). -/
theorem step_of_request (hr : s.cmdReq = some r) (hreset : s.sampled.reset = false) :
    step s = channelAnswer r s.sampled.cmdAnswer s.afterSample := by
  rw [step_no_reset hreset]
  simp [advance, hr]

/-! ### SENDCMD -/

/-- On a created block SENDCMD asks for its bus write (R100). -/
theorem execSendcmd_of_created (ha : s.allocFailed = false) (hc : s.created = true) :
    execSendcmd cmd s = .next (requestCmdWrite cmd s) := whenCreated_pass ha hc _

/-- The status with which SENDCMD answers the outcome of its bus write (R100, R102). -/
def CmdOutcome.status (o : CmdOutcome) : Status :=
  match o with
  | .ok => .ok
  | .error => .busError

/-- The response word of a SENDCMD or FLUSH that succeeds (R58, R160). -/
theorem responseWord_ok : responseWord .ok 0 0#8 false = 0x00000000#32 := by decide

/-- The response word of a SENDCMD or FLUSH whose bus write fails (R58, R160). -/
theorem responseWord_busError : responseWord .busError 0 0#8 false = 0x20000000#32 := by decide

/-- With no operation but SENDCMD in progress, the channel's answer is logged and becomes the response (R100, R102). -/
theorem channelAnswer_of_idle (hp : s.phase = .idle) (hw : s.window = []) (o : CmdOutcome) :
    channelAnswer r (some o) s = .next (respond o.status 0 0#8 false (cmdReturned r o s)) := by
  cases o with
  | ok => simp [channelAnswer, afterCmdOk, hp, CmdOutcome.status]
  | error =>
    have hsame : ((cmdReturned r .error s).setWindow []).setPhase .idle = cmdReturned r .error s := by
      apply State.ext_fields <;> simp [hp, hw]
    rw [channelAnswer, afterCmdError, hsame]
    rfl

/-- The step that takes the word of a SENDCMD asks for its bus write (R100, R151). -/
theorem step_takes_sendcmd (h : Takes s (encode (.sendcmd cmd)) rest) (ha : s.allocFailed = false)
    (hc : s.created = true) : step s = .next (requestCmdWrite cmd (taken s rest)) := by
  rw [step_of_takes h, runWord, decode_encode rfl]
  exact execSendcmd_of_created (s := taken s rest) ha hc

/-- The step in which the channel answers it (R151). -/
theorem step_answers_sendcmd {inp : Inputs} {more : List Inputs} {o : CmdOutcome} (hr : s.cmdReq = some r)
    (hp : s.phase = .idle) (hw : s.window = []) (hin : s.inputs = inp :: more) (hreset : inp.reset = false)
    (ho : inp.cmdAnswer = some o) :
    step s = .next (respond o.status 0 0#8 false (cmdReturned r o s.afterSample)) := by
  have hsampled : s.sampled = inp := by simp [State.sampled, hin]
  rw [step_of_request hr (by rw [hsampled, hreset]), hsampled, ho]
  exact channelAnswer_of_idle (s := s.afterSample) hp hw o

/-! ### A bus write that is not answered -/

/-- What every input in store meets, and the quiet one past their end, the inputs sampled next meet (R22). -/
theorem State.sampled_of_forall {P : Inputs → Prop} (hquiet : P Inputs.quiet) (h : ∀ inp ∈ s.inputs, P inp) :
    P s.sampled := by
  unfold State.sampled
  cases hi : s.inputs with
  | nil => exact hquiet
  | cons inp _ => exact h inp (by simp [hi])

/-- A block that waits, each step only using up its inputs, is after `n` steps where it was (log entry 11). -/
theorem steps_iff_of_waits {P : State → Prop} (hP : ∀ u, P u → step u = .next u.afterSample ∧ P u.afterSample)
    {n : Nat} (hs : P s) : Steps n s t ↔ t = s.setInputs (s.inputs.drop n) := by
  have hrun : Steps n s (s.setInputs (s.inputs.drop n)) := by
    induction n generalizing s with
    | zero => exact .refl s
    | succ n ih =>
      obtain ⟨hstep, hnext⟩ := hP s hs
      have hdrop : s.afterSample.inputs.drop n = s.inputs.drop (n + 1) := by simp
      exact .cons hstep (hdrop ▸ ih hnext)
  exact ⟨fun h => h.unique hrun, fun e => e ▸ hrun⟩

/-- A bus write is outstanding and no input in store answers it or resets the block (R103). -/
structure Unanswered (s : State) : Prop where
  request : ∃ r, s.cmdReq = some r
  inputs : ∀ inp ∈ s.inputs, inp.reset = false ∧ inp.cmdAnswer = none

/-- Such a block waits (R103). -/
theorem Unanswered.waits (h : Unanswered s) : step s = .next s.afterSample ∧ Unanswered s.afterSample := by
  obtain ⟨r, hr⟩ := h.request
  obtain ⟨hreset, hanswer⟩ := State.sampled_of_forall ⟨rfl, rfl⟩ h.inputs
  refine ⟨?_, ⟨r, hr⟩, fun inp hin => h.inputs inp (List.mem_of_mem_tail hin)⟩
  rw [step_of_request hr hreset, hanswer]
  rfl

end

/-- Settles O31, by the one arm of SENDCMD that a created block reaches. -/
theorem sendcmdRequests : Obligations.SendcmdRequests := by
  intro s cmd ha hc
  exact ⟨requestCmdWrite cmd s, execSendcmd_of_created ha hc, rfl, rfl⟩

/-- Settles O32, by the step of the request and the step of the channel's answer. -/
theorem sendcmdInTwoSteps : Obligations.SendcmdInTwoSteps := by
  intro s cmd rest o i1 i2 more htakes hin hreset ho ha hc hw
  have hfirst := step_takes_sendcmd htakes ha hc
  obtain ⟨⟨hp, hr⟩, _, _⟩ := htakes
  have hin' : (requestCmdWrite cmd (taken s rest)).inputs = i2 :: more := by simp [hin]
  have hsecond := step_answers_sendcmd (s := requestCmdWrite cmd (taken s rest)) rfl hp hw hin' hreset ho
  refine ⟨_, .cons hfirst (.cons hsecond (.refl _)), ⟨by simpa using hp, by simp⟩, ?_, ?_⟩
  · cases o with
    | ok => simp [CmdOutcome.status, responseWord_ok]
    | error => simp [CmdOutcome.status, responseWord_busError]
  · apply State.ext_fields <;> simp [hr, hin]

/-- Settles O33, by the step of a block that waits for its bus write. -/
theorem unansweredWriteBlocks : Obligations.UnansweredWriteBlocks := by
  intro n s r hr hin t
  exact steps_iff_of_waits (fun _ h => Unanswered.waits h) ⟨⟨r, hr⟩, hin⟩

end Sys2Proof.Machine
end

section
/-! PROOF. The steps of a FLUSH, phase by phase: the address window, the staging memory, the trigger, the burst channel
and the return to Idle (R110 to R124). -/

namespace Sys2Proof.Machine

section
variable {s : State} {r : CmdRequest}

/-! ### The step of each phase -/

/-- In phase AddressWindowSet an `ok` is logged and the sequencer goes on, in one step (R112, R151). -/
theorem step_addressWindowSet_ok (hp : s.phase = .addressWindowSet) (hreset : s.sampled.reset = false)
    (hr : s.cmdReq = some r) (ha : s.sampled.cmdAnswer = some .ok) :
    step s = .next (windowStep (cmdReturned r .ok s.afterSample)) := by
  rw [step_of_request hr hreset, ha]
  simp [channelAnswer, afterCmdOk, hp]

/-- With bytes of `AW` left the sequencer asks for the next (R112). -/
theorem windowStep_of_cons {b : Byte} {bs : List Byte} (hw : s.window = b :: bs) :
    windowStep s = requestCmdWrite b (s.setWindow bs) := by
  rw [windowStep, hw]

/-- With none left it leaves the phase (R112). -/
theorem windowStep_of_nil (hw : s.window = []) : windowStep s = s.setPhase .staged := by
  rw [windowStep, hw]

/-- Phase Staged is one step (R127). -/
theorem step_staged (hp : s.phase = .staged) (hr : s.cmdReq = none) (hreset : s.sampled.reset = false) :
    step s = .next (stageStep s.afterSample) := by
  rw [step_no_reset hreset]
  simp [advance, hr, hp]

/-- Phase Armed is one step (R117). -/
theorem step_armed (hp : s.phase = .armed) (hr : s.cmdReq = none) (hreset : s.sampled.reset = false) :
    step s = .next (armStep s.afterSample) := by
  rw [step_no_reset hreset]
  simp [advance, hr, hp]

/-- In phase Completed the core waits, and the burst channel may act (R118). -/
theorem step_completed (hp : s.phase = .completed) (hr : s.cmdReq = none) (hreset : s.sampled.reset = false) :
    step s = waitStep s.sampled.txReady s.afterSample := by
  rw [step_no_reset hreset]
  simp [advance, hr, hp]

/-! ### The wait in phase Completed -/

/-- Move is enabled while words remain and the device is ready (R122). -/
theorem waitStep_of_ready {w : WideWord} (ha : s.bc.active = true) (hm : 0 < s.bc.remaining)
    (hw : s.staging[s.bc.src + s.bc.pos]? = some w) :
    waitStep true s = .next ((s.logEvent (.data w)).setBc s.bc.moved) := by
  simp [waitStep, burstMove, ha, hw, Nat.ne_of_gt hm]

/-- While words remain and the device is not ready, nothing changes (R124). -/
theorem waitStep_of_not_ready (ha : s.bc.active = true) (hm : 0 < s.bc.remaining) : waitStep false s = .next s := by
  simp [waitStep, ha, Nat.ne_of_gt hm]

/-- Finish is enabled when no word remains, whether or not the device is ready (R123). -/
theorem waitStep_of_all_moved {txReady : Bool} (ha : s.bc.active = true) (hm : s.bc.remaining = 0) :
    waitStep txReady s = .next (burstFinish s) := by
  simp [waitStep, ha, hm]

/-- Once the completion report stands the core returns to Idle (R119). -/
theorem waitStep_of_done {txReady : Bool} (ha : s.bc.active = false) (hd : s.bc.done = true) :
    waitStep txReady s = .next (flushDone s) := by
  simp [waitStep, ha, hd]

/-- The burst channel has words to move, and no input in store is ready for one or resets the block (R124). -/
structure Stalled (s : State) : Prop where
  phase : s.phase = .completed
  noRequest : s.cmdReq = none
  active : s.bc.active = true
  remaining : 0 < s.bc.remaining
  inputs : ∀ inp ∈ s.inputs, inp.reset = false ∧ inp.txReady = false

/-- Such a block waits (R124). -/
theorem Stalled.waits (h : Stalled s) : step s = .next s.afterSample ∧ Stalled s.afterSample := by
  obtain ⟨hreset, hready⟩ := State.sampled_of_forall ⟨rfl, rfl⟩ h.inputs
  refine ⟨?_, h.phase, h.noRequest, h.active, h.remaining, fun inp hin => h.inputs inp (List.mem_of_mem_tail hin)⟩
  rw [step_completed h.phase h.noRequest hreset, hready]
  exact waitStep_of_not_ready (s := s.afterSample) h.active h.remaining

end

/-- Settles O35, by what the sequencer does with a byte of `AW` left and with none. -/
theorem windowBytesSentInOrder : Obligations.WindowBytesSentInOrder := by
  intro s hp hreset
  refine ⟨fun r b bs hr ha hw => ?_, fun r hr ha hw => ?_, fun r hr ha => ?_, fun hs => ?_⟩
  · rw [step_addressWindowSet_ok hp hreset hr ha, windowStep_of_cons (s := cmdReturned r .ok s.afterSample) hw]
    rfl
  · rw [step_addressWindowSet_ok hp hreset hr ha, windowStep_of_nil (s := cmdReturned r .ok s.afterSample) hw]
    rfl
  · rw [step_of_request hr hreset, ha]
    rfl
  · obtain ⟨_, _, hne⟩ := (phaseInv_addressWindowSet_iff hp).1 hs.phases
    exact hne

/-- Settles O36, by the channel's answer `error`. -/
theorem busErrorEndsFlush : Obligations.BusErrorEndsFlush := by
  intro s r hp hreset hr ha
  rw [step_of_request hr hreset, ha]
  show Host.Outcome.next (afterCmdError (cmdReturned r .error s.afterSample)) = _
  congr 1
  apply State.ext_fields <;> simp [responseWord_busError]

/-- Settles O37, by the words of the frame that phase Staged writes. -/
theorem stagedFrame : Obligations.StagedFrame := by
  intro s hp hr hreset hlegal hpos
  obtain ⟨n, hn⟩ : ∃ n, s.cfg.imageLen = n + 1 := ⟨s.cfg.imageLen - 1, by omega⟩
  have hwords := frameOf_eq hlegal hn
  refine ⟨_, step_staged hp hr hreset, rfl, length_frameOf s, fun i hi => ?_, ?_,
    fun w hw => lt_of_mem_frameOf hlegal hw hpos, rfl⟩
  · show (frameOf s)[i]? = _
    have hi : i < n := by omega
    simp [hwords, List.getElem?_append_left, hi]
  · show (frameOf s)[s.cfg.imageLen - 1]? = _
    simp [hwords, hn]

/-- Settles O38, by the step of phase Armed. -/
theorem armConfiguresBurst : Obligations.ArmConfiguresBurst := by
  intro s hp hr hreset
  rw [step_armed hp hr hreset]
  rfl

/-- Settles O39, by the three things the burst channel does while it is active: Move, wait and Finish. -/
theorem burstSteps : Obligations.BurstSteps := by
  intro s hp hr hreset ha
  rw [step_completed hp hr hreset]
  refine ⟨fun w hm ht hw => ?_, fun hm ht => ?_, fun hm => ?_⟩
  · rw [ht]
    exact waitStep_of_ready (s := s.afterSample) ha hm hw
  · rw [ht]
    exact waitStep_of_not_ready (s := s.afterSample) ha hm
  · exact waitStep_of_all_moved (s := s.afterSample) ha hm

/-- Settles O40, by the end of the wait in phase Completed. -/
theorem completionReturnsToIdle : Obligations.CompletionReturnsToIdle := by
  intro s hp hr hreset ha hd
  rw [step_completed hp hr hreset, waitStep_of_done (s := s.afterSample) ha hd, flushDone, respond, responseWord_ok]
  rfl

/-- Settles O41, by the step of a block that waits for its device. -/
theorem stalledDeviceBlocks : Obligations.StalledDeviceBlocks := by
  intro n s hp hr ha hm hin t
  exact steps_iff_of_waits (fun _ h => Stalled.waits h) ⟨hp, hr, ha, hm, hin⟩

end Sys2Proof.Machine
end

section
/-! PROOF. A FLUSH on a platform that answers every bus write `ok` and is always ready: its steps, counted (R151). -/

namespace Sys2Proof.Machine

/-- What a platform that answers `ok` and is ready gives in every step, no reset being asserted. -/
def Inputs.prompt : Inputs := ⟨false, some .ok, true⟩

/-- The platform is prompt for `n` steps, and then gives what `more` says. -/
def PromptFor (n : Nat) (more : List Inputs) (s : State) : Prop :=
  s.inputs = List.replicate n Inputs.prompt ++ more

section
variable {s : State} {n : Nat} {more : List Inputs}

/-- What a step samples of a prompt platform, and what is left after it. -/
theorem PromptFor.sampled (h : PromptFor (n + 1) more s) :
    s.sampled.reset = false ∧ s.sampled.cmdAnswer = some .ok ∧ s.sampled.txReady = true ∧
      s.inputs.tail = List.replicate n Inputs.prompt ++ more := by
  rw [State.sampled, h, List.replicate_succ]
  exact ⟨rfl, rfl, rfl, rfl⟩

/-- A platform that is prompt for `m + n` steps is prompt for the first `m` of them. -/
theorem PromptFor.split {m : Nat} (h : PromptFor (m + n) more s) :
    PromptFor m (List.replicate n Inputs.prompt ++ more) s := by
  rw [PromptFor, h, List.replicate_add, List.append_assoc]

/-- The step that takes the word of a FLUSH starts it (R110). -/
theorem step_takes_flush {rest : List CmdWord} (h : Takes s (encode .flush) rest) (ha : s.allocFailed = false)
    (hc : s.created = true) : step s = .next (flushStart (taken s rest)) := by
  rw [step_of_takes h, runWord, decode_encode rfl]
  exact whenCreated_pass (s := taken s rest) ha hc _

/-- With a bus write outstanding and the bytes `bs` of `AW` left, phase AddressWindowSet takes a step for each bus write
(R112, R151). -/
theorem steps_window {bs : List Byte} {r : CmdRequest} (hp : s.phase = .addressWindowSet) (hr : s.cmdReq = some r)
    (hw : s.window = bs) (hin : PromptFor (bs.length + 1) more s) :
    Steps (bs.length + 1) s { s with
      inputs := more, window := [], cmdReq := none, phase := .staged,
      log := s.log ++ .cmd r.addr r.b0 r.b1 .ok :: okWrites s bs } := by
  induction bs generalizing s r with
  | nil =>
    obtain ⟨hreset, hok, _, htail⟩ := hin.sampled
    obtain ⟨_, hlast, _⟩ := windowBytesSentInOrder s hp hreset
    refine .cons ((hlast r hr hok hw).trans ?_) (.refl _)
    congr 1
    apply State.ext_fields <;> simp [htail, hw, okWrites]
  | cons b bs ih =>
    obtain ⟨hreset, hok, _, htail⟩ := hin.sampled
    obtain ⟨hnext, _⟩ := windowBytesSentInOrder s hp hreset
    refine .cons (hnext r b bs hr hok hw) ?_
    have hrest := ih (s := { s with
      inputs := s.inputs.tail, window := bs, cmdReq := some ⟨s.cfg.devAddr, 0x80#8, b⟩,
      log := s.log ++ [.cmd r.addr r.b0 r.b1 .ok] }) hp rfl rfl htail
    simpa [okWrites] using hrest

/-- With the words `ws` still to move, the burst channel takes a step for each of them (R122, R151). -/
theorem steps_moves {ws : List WideWord} (hp : s.phase = .completed) (hr : s.cmdReq = none)
    (ha : s.bc.active = true) (hsrc : s.bc.src = 0) (hm : s.bc.remaining = ws.length)
    (hws : s.staging.drop s.bc.pos = ws) (hin : PromptFor ws.length more s) :
    Steps ws.length s { s with
      inputs := more, log := s.log ++ ws.map .data,
      bc := { s.bc with pos := s.bc.pos + ws.length, remaining := s.bc.remaining - ws.length } } := by
  induction ws generalizing s with
  | nil =>
    obtain rfl : s.inputs = more := hin
    simpa using Steps.refl s
  | cons w ws ih =>
    obtain ⟨hreset, _, hready, htail⟩ := hin.sampled
    obtain ⟨hmove, _⟩ := burstSteps s hp hr hreset ha
    have hword : s.staging[s.bc.src + s.bc.pos]? = some w := by
      rw [hsrc, Nat.zero_add, ← List.head?_drop, hws]
      rfl
    refine .cons (hmove w (by simp [hm]) hready hword) ?_
    have hrest := ih (s := { s with
      inputs := s.inputs.tail, log := s.log ++ [.data w],
      bc := { s.bc with pos := s.bc.pos + 1, remaining := s.bc.remaining - 1 } }) hp hr ha hsrc
      (by simp [hm]) (by rw [← List.tail_drop, hws]; rfl) htail
    simpa [Nat.add_assoc, Nat.add_comm 1, Nat.sub_sub] using hrest

/-- With every word moved, the burst channel reports and the core answers (R119, R123, R151). -/
theorem steps_report (hp : s.phase = .completed) (hr : s.cmdReq = none) (ha : s.bc.active = true)
    (hm : s.bc.remaining = 0) (hin : PromptFor 2 more s) :
    Steps 2 s { s with
      inputs := more, phase := .idle, staging := [], bc := s.bc.finished,
      log := s.log ++ [.done, .rsp 0x00000000#32] } := by
  obtain ⟨hreset, _, _, htail⟩ := hin.sampled
  obtain ⟨hreset', _, _, htail'⟩ := PromptFor.sampled (s := burstFinish s.afterSample) htail
  have hfinish := (step_completed hp hr hreset).trans (waitStep_of_all_moved (s := s.afterSample) ha hm)
  have hdone := completionReturnsToIdle (burstFinish s.afterSample) hp (by simpa using hr) hreset' rfl rfl
  have hmore : s.inputs.tail.tail = more := htail'
  simpa [hmore] using Steps.cons hfinish (.cons hdone (.refl _))

/-- A transfer from its trigger on: a step for each staging word, one for Finish and one for the end of the wait
(R151). -/
theorem steps_burst (hp : s.phase = .completed) (hr : s.cmdReq = none) (ha : s.bc.active = true) (hsrc : s.bc.src = 0)
    (hpos : s.bc.pos = 0) (hm : s.bc.remaining = s.staging.length) (hin : PromptFor (s.staging.length + 2) more s) :
    Steps (s.staging.length + 2) s { s with
      inputs := more, phase := .idle, staging := [],
      bc := { s.bc with pos := s.staging.length, remaining := 0, active := false, done := true },
      log := s.log ++ s.staging.map .data ++ [.done, .rsp 0x00000000#32] } := by
  have hmoves := steps_moves hp hr ha hsrc hm (by rw [hpos]; rfl) hin.split
  have hmoved : { s.bc with
      pos := s.bc.pos + s.staging.length, remaining := s.bc.remaining - s.staging.length } =
      { s.bc with pos := s.staging.length, remaining := 0 } := by
    simp [hpos, hm]
  rw [hmoved] at hmoves
  exact hmoves.trans (steps_report hp hr ha rfl rfl)

/-- From phase Staged on: a step for the staging memory, one for the trigger, and then those of the transfer (R151). -/
theorem steps_transfer (hp : s.phase = .staged) (hr : s.cmdReq = none)
    (hin : PromptFor (s.cfg.imageLen + 4) more s) :
    Steps (s.cfg.imageLen + 4) s { s with
      inputs := more, phase := .idle, staging := [],
      bc := { triggered s with pos := s.cfg.imageLen, remaining := 0, active := false, done := true },
      log := s.log ++ [.arm 0 s.params.dataRegAddr s.params.wordBits s.cfg.imageLen] ++ (frameOf s).map .data ++
        [.done, .rsp 0x00000000#32] } := by
  obtain ⟨hreset, _, _, htail⟩ := hin.sampled
  obtain ⟨hreset', _, _, htail'⟩ := PromptFor.sampled (s := stageStep s.afterSample) htail
  have hstage := step_staged hp hr hreset
  have harm := step_armed (s := stageStep s.afterSample) (by simp) (by simpa using hr) hreset'
  let u := armStep (stageStep s.afterSample).afterSample
  have hlen : u.staging.length = s.cfg.imageLen := length_frameOf s
  have hburst := steps_burst (s := u) (more := more) rfl (by simpa [u] using hr) rfl rfl rfl hlen.symm
    (by rw [hlen]; exact htail')
  have hrun := Steps.cons hstage (.cons harm hburst)
  rw [hlen] at hrun
  simpa [u, triggered, frameOf] using hrun

/-- A FLUSH from its first bus write on, with the bytes `bs` of `AW` left: the steps of the address window, then those
of the transfer (R151). -/
theorem steps_flush {bs : List Byte} {r : CmdRequest} (hp : s.phase = .addressWindowSet) (hr : s.cmdReq = some r)
    (hw : s.window = bs) (hin : PromptFor (bs.length + 1 + (s.cfg.imageLen + 4)) more s) :
    Steps (bs.length + 1 + (s.cfg.imageLen + 4)) s { s with
      inputs := more, window := [], cmdReq := none, phase := .idle, staging := [],
      bc := { triggered s with pos := s.cfg.imageLen, remaining := 0, active := false, done := true },
      log := s.log ++ .cmd r.addr r.b0 r.b1 .ok :: okWrites s bs ++
        [.arm 0 s.params.dataRegAddr s.params.wordBits s.cfg.imageLen] ++ (frameOf s).map .data ++
        [.done, .rsp 0x00000000#32] } := by
  have htransfer := steps_transfer (more := more) (s := { s with
    inputs := List.replicate (s.cfg.imageLen + 4) Inputs.prompt ++ more, window := [], cmdReq := none, phase := .staged,
    log := s.log ++ .cmd r.addr r.b0 r.b1 .ok :: okWrites s bs }) rfl rfl rfl
  exact (steps_window hp hr hw hin.split).trans htransfer

end

/-- Settles O43, by the step that accepts FLUSH and the steps of its sequencer. -/
theorem flushCompletes : Obligations.FlushCompletes := by
  intro s more hs hready hc hw hin
  obtain ⟨hreset, _, _, htail⟩ := PromptFor.sampled (s := s) hin
  have hstart := step_takes_flush ⟨hready, hreset, hw⟩ (hs.not_allocFailed hc) hc
  obtain ⟨b, bs, haw, hfirst⟩ := flushStart_eq (taken s [])
  rw [hfirst] at hstart
  have haw : addressWindow s.params s.cfg = b :: bs := haw
  have hlength : (addressWindow s.params s.cfg).length = bs.length + 1 := by rw [haw, List.length_cons]
  let u := requestCmdWrite b (((taken s []).setWindow bs).setPhase .addressWindowSet)
  have hrest : PromptFor (bs.length + 1 + (s.cfg.imageLen + 4)) more u := by
    rw [hlength, Nat.add_assoc] at htail
    exact htail
  have hrun := steps_flush (s := u) rfl rfl rfl hrest
  have hlen := (hs.latched hc).two_le_imageLen
  have hevents : frameEvents s = (frameOf u).map .data := frameEvents_eq_map hs.params (by omega)
  obtain ⟨hstaging, hwindow, _⟩ := (phaseInv_idle_iff hready.1).1 hs.phases
  rw [hlength, Nat.add_assoc]
  refine ⟨_, .cons hstart hrun, ⟨rfl, rfl⟩, ?_, rfl, rfl, rfl, ?_⟩
  · simp [u, okFlushLog, okWrites, haw, hevents]
  · apply State.ext_fields <;> simp [u, hready.1, hready.2, hstaging, hwindow]

end Sys2Proof.Machine
end

section
/-! PROOF. The moves of `phase` (R11, R18, R111). -/

namespace Sys2Proof.Machine

/-- No operation but FLUSH changes `phase` (R11). -/
theorem exec_keeps_phase {i : Instr} {s t : State} (hi : i ≠ .flush) (h : exec i s = .next t) : t.phase = s.phase := by
  rcases exec_next_cases h with ⟨_, _, rfl⟩ | ⟨_, _, _, _, _, _, _, ⟨_, rfl⟩ | ⟨_, rfl⟩⟩ | ⟨_, _, hd⟩
  · rfl
  · rfl
  · rfl
  · cases hd with
    | flush => exact absurd rfl hi
    | _ => rfl

/-- The moves of `phase` in a step that samples `inp`, with the burst channel at `b` before it: along the order of R111,
or back to Idle on a bus error (R113). -/
inductive PhaseMove (inp : Inputs) (b : Burst) : Phase → Phase → Prop where
  | stay (p : Phase) : PhaseMove inp b p p
  | start : PhaseMove inp b .idle .addressWindowSet
  | windowSet : PhaseMove inp b .addressWindowSet .staged
  | stage : PhaseMove inp b .staged .armed
  | arm : PhaseMove inp b .armed .completed
  | returnIdle (hd : b.done = true) : PhaseMove inp b .completed .idle
  | busError (ha : inp.cmdAnswer = some .error) : PhaseMove inp b .addressWindowSet .idle

section
variable {s t : State} {inp : Inputs} {b : Burst} {p p' : Phase}

/-- The moves of `phase` as R111 lists them. -/
theorem PhaseMove.inOrder (h : PhaseMove inp b p p') :
    p' = p ∨ (p = .idle ∧ p' = .addressWindowSet) ∨ (p = .addressWindowSet ∧ p' = .staged) ∨
      (p = .staged ∧ p' = .armed) ∨ (p = .armed ∧ p' = .completed) ∨
      (p = .completed ∧ p' = .idle ∧ b.done = true) ∨
      (p = .addressWindowSet ∧ p' = .idle ∧ inp.cmdAnswer = some .error) := by
  cases h with
  | returnIdle hd => simp [hd]
  | busError ha => simp [ha]
  | _ => simp

/-- After an `ok` SENDCMD leaves `phase` as it is, and the sequencer stays in its phase or goes on (R100, R112). -/
theorem phaseMove_afterCmdOk (s : State) : PhaseMove inp b s.phase (afterCmdOk s).phase := by
  rcases afterCmdOk_cases s with ⟨_, e⟩ | ⟨hp, e⟩ | ⟨_, _, e⟩ <;> rw [e]
  · exact .stay _
  · rcases windowStep_cases s with ⟨_, _, _, e⟩ | ⟨_, e⟩ <;> rw [e]
    · exact .stay _
    · rw [hp]
      exact .windowSet
  · exact .stay _

/-- An instruction leaves `phase` as it is, or is FLUSH, which starts from phase Idle (R11, R110). -/
theorem phaseMove_exec {i : Instr} (hs : s.phase = .idle) (h : exec i s = .next t) :
    PhaseMove inp b s.phase t.phase := by
  by_cases hi : i = .flush
  · subst hi
    rcases exec_next_cases h with ⟨_, _, rfl⟩ | ⟨_, _, _, hi, _⟩ | ⟨_, _, hd⟩
    · exact .stay _
    · nomatch hi
    · cases hd
      rw [hs, flushStart_phase]
      exact .start
  · rw [exec_keeps_phase hi h]
    exact .stay _

/-- The move of `phase` in every step without a reset. -/
theorem Advanced.phaseMove (hs : Inv s) (h : Advanced inp s t) : PhaseMove inp s.bc s.phase t.phase := by
  cases h with
  | unanswered _ _ | noWord _ _ | notReady _ _ _ _ _ | noReport _ _ _ _ => exact .stay _
  | @answeredOk r _ _ => exact phaseMove_afterCmdOk (cmdReturned r .ok s)
  | answeredError hr ha =>
    obtain ⟨hp | hp, _⟩ := hs.phase_of_request hr <;> rw [hp]
    · exact .stay _
    · exact .busError ha
  | illegal _ _ _ =>
    rw [rejectIllegal_phase]
    exact .stay _
  | @run w rest i _ hready _ _ he => exact phaseMove_exec (s := s.setHostWords rest) hready.1 he
  | windowByte _ _ _ | move _ _ _ _ _ _ | finish _ _ _ _ => exact .stay _
  | windowDone hp _ _ =>
    rw [hp]
    exact .windowSet
  | stage hp _ =>
    rw [hp]
    exact .stage
  | arm hp _ =>
    rw [hp]
    exact .arm
  | returnIdle hp _ _ hd =>
    rw [hp]
    exact .returnIdle hd

end

/-- Settles O48, by the move of each step and of each instruction. -/
theorem phaseMovesInOrder : Obligations.PhaseMovesInOrder := by
  refine ⟨fun s t hs hreset hstep => ?_, fun i s t h hi => exec_keeps_phase hi h⟩
  rcases step_next_cases hstep with ⟨h, _⟩ | ⟨_, hadv⟩
  · simp [hreset] at h
  · exact (hadv.phaseMove (s := s.afterSample) (hs.congr rfl)).inOrder

end Sys2Proof.Machine
end

section
/-! PROOF. The step of a ready block: it runs the word at the command port, and without a word it waits (R150, R180,
R186). -/

namespace Sys2Proof.Machine

section
variable {s : State} {w : CmdWord} {rest : List CmdWord} {i : Instr}

/-- A ready block that takes the word of an instruction executes the instruction (R150). -/
theorem step_of_decodes (h : Takes s w rest) (hd : decode w = .ok i) : step s = exec i (taken s rest) := by
  rw [step_of_takes h, runWord, hd]

/-- The word `presenting` places at the head is the one taken next, with the words in store left behind it (R150). -/
theorem State.takes_presenting (s : State) (w : CmdWord) : Takes (s.presenting w) w s.hostWords := ⟨⟨rfl, rfl⟩, rfl, rfl⟩

/-- A command word fetched whole, by its 32 bits, is that word presented at the port (log entry 6). -/
theorem State.withFetchWord_toNat (s : State) (w : CmdWord) : s.withFetchWord 32 w.toNat = s.presenting w := by
  rw [State.withFetchWord, Nat.mod_eq_of_lt w.isLt, BitVec.ofNat_toNat, BitVec.setWidth_eq]

/-- A ready block without a word to take only uses up its inputs (R150, log entry 11). -/
theorem State.Accepts.step_of_no_word (h : s.Accepts) (hw : s.hostWords = []) : step s = .next s.afterSample := by
  obtain ⟨⟨hp, hr⟩, hreset⟩ := h
  simp [step_no_reset hreset, advance, acceptWord, hp, hr, hw]

end

/-- Settles O6, by the step of a block that takes a word. -/
theorem stepRunsDecoded : Obligations.StepRunsDecoded := fun _ _ _ _ htakes hd => step_of_decodes htakes hd

/-- Settles O7: the word placed at the port is taken, and the encoding of a well-formed instruction decodes to it. -/
theorem fetchWordIsTaken : Obligations.FetchWordIsTaken := by
  intro s i hi
  rw [State.withFetchWord_toNat, step_of_decodes (s.takes_presenting (encode i)) (decode_encode hi)]
  rfl

/-- Settles O9, by the step of a ready block without a word, which leaves the empty list of words as it is. -/
theorem waitsForWord : Obligations.WaitsForWord := by
  intro s hready hreset hw
  have htaken : s.afterSample = taken s [] := by apply State.ext_fields <;> simp [hw]
  rw [State.Accepts.step_of_no_word ⟨hready, hreset⟩ hw, htaken]

end Sys2Proof.Machine
end

section
/-! PROOF. `drawLine`: the loop of a line that is not steep, counted down along `x`; a steep line is the mirror image of
such a line (R145). -/

namespace Sys2Proof.Machine

section
variable {c : LineConsts} {v : LineVars} {x0 y0 x1 y1 m : Int} {fuel n : Nat}

/-! ### The mirror image -/

/-- The variables of the line with `x` and `y` exchanged: the error, which begins at `dx - dy`, changes its sign. -/
def LineVars.mirror (v : LineVars) : LineVars := ⟨v.y, v.x, -v.err⟩

/-- The constants of the line with `x` and `y` exchanged. -/
def LineConsts.mirror (c : LineConsts) : LineConsts := ⟨c.dy, c.dx, c.sy, c.sx⟩

/-- The two updates of a step are each other's mirror image. -/
theorem LineVars.next_mirror (c : LineConsts) (v : LineVars) : v.mirror.next c.mirror = (v.next c).mirror := by
  have hx : -c.dx < 2 * -v.err ↔ 2 * v.err < c.dx := by omega
  have hy : 2 * -v.err < c.dy ↔ -c.dy < 2 * v.err := by omega
  simp only [LineVars.next, LineVars.stepX, LineVars.stepY, LineVars.mirror, LineConsts.mirror, hx, hy]
  split <;> split <;> simp <;> omega

/-- The loop of the mirror image plots the mirror images of its points. -/
theorem lineLoop_mirror (c : LineConsts) (x1 y1 : Int) (fuel : Nat) (v : LineVars) :
    lineLoop c.mirror y1 x1 fuel v.mirror = (lineLoop c x1 y1 fuel v).map Prod.swap := by
  induction fuel generalizing v with
  | zero => rfl
  | succ fuel ih =>
    have hend : v.mirror.x = y1 ∧ v.mirror.y = x1 ↔ v.x = x1 ∧ v.y = y1 := and_comm
    simp only [lineLoop, hend, LineVars.next_mirror, ih]
    split <;> rfl

/-- A line with `x` and `y` exchanged. -/
theorem linePoints_mirror (x0 y0 x1 y1 : Int) : linePoints y0 x0 y1 x1 = (linePoints x0 y0 x1 y1).map Prod.swap := by
  rw [linePoints, linePoints, ← lineLoop_mirror, Nat.add_comm (LineConsts.of y0 x0 y1 x1).dx.toNat]
  simp [LineConsts.mirror, LineVars.mirror, LineConsts.of]

/-! ### The loop -/

/-- The loop plots the point it stands at first. -/
theorem head?_lineLoop : (lineLoop c x1 y1 (fuel + 1) v).head? = some (v.x, v.y) := by
  rw [lineLoop]
  split <;> rfl

/-- At the endpoint the loop plots it and stops. -/
theorem lineLoop_at_end (hx : v.x = x1) (hy : v.y = y1) : lineLoop c x1 y1 (fuel + 1) v = [(x1, y1)] := by
  rw [lineLoop, if_pos ⟨hx, hy⟩, hx, hy]

/-- Anywhere else it goes on. -/
theorem lineLoop_of_x_ne (hx : v.x ≠ x1) :
    lineLoop c x1 y1 (fuel + 1) v = (v.x, v.y) :: lineLoop c x1 y1 fuel (v.next c) := by
  rw [lineLoop, if_neg fun h => hx h.1]

/-- A step in which both tests fire. -/
theorem LineVars.next_of_both (hx : -c.dy < 2 * v.err) (hy : 2 * v.err < c.dx) :
    v.next c = ⟨v.x + c.sx, v.y + c.sy, v.err - c.dy + c.dx⟩ := by
  simp only [LineVars.next, LineVars.stepX, LineVars.stepY, if_pos hx, if_pos hy]

/-- A step in which the first test alone fires. -/
theorem LineVars.next_of_first (hx : -c.dy < 2 * v.err) (hy : ¬2 * v.err < c.dx) :
    v.next c = ⟨v.x + c.sx, v.y, v.err - c.dy⟩ := by
  simp only [LineVars.next, LineVars.stepX, LineVars.stepY, if_pos hx, if_neg hy]

/-- The constants of a line that is not steep. -/
structure LineConsts.Flat (c : LineConsts) : Prop where
  dy_nonneg : 0 ≤ c.dy
  dy_le_dx : c.dy ≤ c.dx
  sx_ne_zero : c.sx ≠ 0

/-- Where the loop of a line stands with `n` steps in `x` and `m` steps in `y` still to go: the error counts both, and
lies between bounds that leave no choice of `m` once `n` is zero. -/
structure LineVars.ToGo (c : LineConsts) (x1 y1 : Int) (n : Nat) (m : Int) (v : LineVars) : Prop where
  x : v.x = x1 - n * c.sx
  y : v.y = y1 - m * c.sy
  err : v.err = c.dx - c.dy + n * c.dy - m * c.dx
  low : -c.dy < 2 * v.err
  high : 2 * v.err < 3 * c.dx - 2 * c.dy

/-- Each step goes by one in `x`, and in `y` if the second test fires; the error stays between its bounds. -/
theorem LineVars.ToGo.next (h : v.ToGo c x1 y1 (n + 1) m) (hc : c.Flat) : ∃ m', (v.next c).ToGo c x1 y1 n m' := by
  obtain ⟨hx, hy, herr, hlow, hhigh⟩ := h
  obtain ⟨hdy, hslope, _⟩ := hc
  push_cast at hx herr
  by_cases htest : 2 * v.err < c.dx
  · rw [LineVars.next_of_both hlow htest]
    exact ⟨m - 1, by constructor <;> dsimp only <;> linarith⟩
  · rw [LineVars.next_of_first hlow htest]
    exact ⟨m, by constructor <;> dsimp only <;> linarith⟩

/-- With no step in `x` to go there is none in `y`: the bounds of the error leave only `m = 0`. -/
theorem LineVars.ToGo.at_end (h : v.ToGo c x1 y1 0 m) (hc : c.Flat) : v.x = x1 ∧ v.y = y1 := by
  obtain ⟨hx, hy, herr, hlow, hhigh⟩ := h
  rw [Nat.cast_zero, zero_mul] at hx herr
  have hdy := hc.dy_nonneg
  have hdx : 0 ≤ c.dx := hdy.trans hc.dy_le_dx
  have hm : m = 0 := by
    have hpos : -1 < m := lt_of_mul_lt_mul_right (by linarith : -1 * c.dx < m * c.dx) hdx
    have hneg : m < 1 := lt_of_mul_lt_mul_right (by linarith : m * c.dx < 1 * c.dx) hdx
    omega
  simp [hx, hy, hm]

/-- With steps in `x` to go the loop is not at its endpoint. -/
theorem LineVars.ToGo.x_ne (h : v.ToGo c x1 y1 (n + 1) m) (hc : c.Flat) : v.x ≠ x1 := by
  have hgo : ((n + 1 : Nat) : Int) * c.sx ≠ 0 := mul_ne_zero (by omega) hc.sx_ne_zero
  have hx := h.x
  omega

/-- With `n` steps in `x` to go the loop plots `n + 1` points, the last of them the endpoint. -/
theorem LineVars.ToGo.lineLoop (h : v.ToGo c x1 y1 n m) (hc : c.Flat) (hfuel : n < fuel) :
    (lineLoop c x1 y1 fuel v).length = n + 1 ∧ (lineLoop c x1 y1 fuel v).getLast? = some (x1, y1) := by
  induction n generalizing m v fuel with
  | zero =>
    obtain ⟨fuel, rfl⟩ := Nat.exists_eq_add_one.2 hfuel
    obtain ⟨hx, hy⟩ := h.at_end hc
    simp [lineLoop_at_end hx hy]
  | succ n ih =>
    obtain ⟨fuel, rfl⟩ := Nat.exists_eq_add_one.2 (Nat.zero_lt_of_lt hfuel)
    obtain ⟨m', hnext⟩ := h.next hc
    obtain ⟨hlength, hlast⟩ := ih hnext (Nat.lt_of_succ_lt_succ hfuel)
    simp [lineLoop_of_x_ne (h.x_ne hc), List.getLast?_cons, hlength, hlast]

/-! ### The points of `drawLine` -/

/-- A step sign has the sign of its delta (R145). -/
theorem abs_mul_step_sign (a b : Int) : |b - a| * (if a < b then 1 else -1) = b - a := by
  split
  next h => rw [abs_of_pos (by omega), mul_one]
  next h => rw [abs_of_nonpos (by omega), mul_neg_one, neg_neg]

/-- A line without length is one point. -/
theorem linePoints_self (x y : Int) : linePoints x y x y = [(x, y)] := lineLoop_at_end rfl rfl

/-- `drawLine` begins at its start. -/
theorem head?_linePoints (x0 y0 x1 y1 : Int) : (linePoints x0 y0 x1 y1).head? = some (x0, y0) := head?_lineLoop

/-- A line that is not steep has a point for each of its columns, the last of them its end. -/
theorem linePoints_of_flat (hslope : (y1 - y0).natAbs ≤ (x1 - x0).natAbs) :
    (linePoints x0 y0 x1 y1).length = (x1 - x0).natAbs + 1 ∧ (linePoints x0 y0 x1 y1).getLast? = some (x1, y1) := by
  by_cases hpoint : x1 = x0
  · have hy : y1 = y0 := by omega
    simp [hpoint, hy, linePoints_self]
  · have hflat : (LineConsts.of x0 y0 x1 y1).Flat := by
      refine ⟨abs_nonneg _, ?_, ?_⟩
      · simp only [LineConsts.of, ← Int.natCast_natAbs]
        omega
      · simp only [LineConsts.of]
        split <;> decide
    have hdx : 0 < |x1 - x0| := abs_pos.2 (sub_ne_zero.2 hpoint)
    have hstart : LineVars.ToGo (LineConsts.of x0 y0 x1 y1) x1 y1 (x1 - x0).natAbs |y1 - y0|
        ⟨x0, y0, |x1 - x0| - |y1 - y0|⟩ := by
      have := hflat.dy_nonneg
      have := hflat.dy_le_dx
      constructor <;> simp only [LineConsts.of, Int.natCast_natAbs, abs_mul_step_sign] at * <;> linarith
    exact hstart.lineLoop hflat (by simp only [LineConsts.of, ← Int.natCast_natAbs]; omega)

end

/-- Settles O57: a line that is not steep is counted along `x`, and a steep one is the mirror image of such a line. -/
theorem lineReachesItsEnd : Obligations.LineReachesItsEnd := by
  intro x0 y0 x1 y1
  rcases le_total (y1 - y0).natAbs (x1 - x0).natAbs with hslope | hslope
  · obtain ⟨hlength, hlast⟩ := linePoints_of_flat hslope
    exact ⟨by omega, head?_linePoints _ _ _ _, hlast⟩
  · obtain ⟨hlength, hlast⟩ := linePoints_of_flat hslope
    refine ⟨?_, head?_linePoints _ _ _ _, ?_⟩
    · rw [linePoints_mirror, List.length_map]
      omega
    · rw [linePoints_mirror, List.getLast?_map, hlast]
      rfl

end Sys2Proof.Machine
end

section
/-! PROOF. The pixels and cells of the host's other routines: a horizontal line, the interior of a rectangle, a string
(R142, R143, R147, R148). -/

namespace Sys2Proof.Machine

section
variable {c : LineConsts} {width height x y : Nat}

/-- On a line without height both tests of a step read the first error again: it goes by one in `x` (R148). -/
theorem LineVars.next_of_level (hdy : c.dy = 0) (hdx : 0 < c.dx) (x y : Int) :
    LineVars.next c ⟨x, y, c.dx⟩ = ⟨x + c.sx, y, c.dx⟩ := by
  have hfirst : -c.dy < 2 * c.dx := by omega
  have hsecond : ¬2 * c.dx < c.dx := by omega
  rw [LineVars.next_of_first hfirst hsecond, hdy, sub_zero]

/-- The loop of such a line, drawn to the right, plots the columns in order. -/
theorem lineLoop_of_level (hdy : c.dy = 0) (hsx : c.sx = 1) {n : Nat} (hdx : n ≤ c.dx) {fuel : Nat} (hfuel : n < fuel)
    (x : Nat) (y : Int) :
    lineLoop c ((x + n : Nat) : Int) y fuel ⟨x, y, c.dx⟩ =
      (List.range' x (n + 1)).map fun a : Nat => ((a : Int), y) := by
  induction n generalizing x fuel with
  | zero =>
    obtain ⟨fuel, rfl⟩ := Nat.exists_eq_add_one.2 hfuel
    exact lineLoop_at_end rfl rfl
  | succ n ih =>
    obtain ⟨fuel, rfl⟩ := Nat.exists_eq_add_one.2 (Nat.zero_lt_of_lt hfuel)
    have hx : (x : Int) ≠ ((x + (n + 1) : Nat) : Int) := by omega
    have hnext : LineVars.next c ⟨x, y, c.dx⟩ = ⟨((x + 1 : Nat) : Int), y, c.dx⟩ := by
      rw [LineVars.next_of_level hdy (by omega), hsx, Nat.cast_succ]
    have hrest := ih (by omega) (Nat.lt_of_succ_lt_succ hfuel) (x + 1)
    rw [Nat.add_assoc, Nat.add_comm 1] at hrest
    rw [lineLoop_of_x_ne hx, hnext, hrest]
    rfl

/-- A horizontal line to the right (R148). -/
theorem linePixels_eq_hlinePixels {x0 x1 : Nat} (h : x0 ≤ x1) : linePixels x0 y x1 y = hlinePixels x0 x1 y := by
  rcases h.eq_or_lt with rfl | hlt
  · simp [linePixels, linePoints_self, hlinePixels, span]
  · obtain ⟨n, rfl⟩ := Nat.exists_eq_add_of_le hlt.le
    have hdy : (LineConsts.of x0 y ((x0 + n : Nat) : Int) y).dy = 0 := by simp [LineConsts.of]
    have hdx : (LineConsts.of x0 y ((x0 + n : Nat) : Int) y).dx = n := by simp [LineConsts.of]
    have hsx : (LineConsts.of x0 y ((x0 + n : Nat) : Int) y).sx = 1 := if_pos (by omega)
    have hspan : x0 + n + 1 - x0 = n + 1 := by omega
    rw [linePixels, linePoints, hdy, sub_zero, lineLoop_of_level hdy hsx hdx.ge (by omega), hlinePixels, span, hspan,
      List.map_map]
    rfl

/-- The pixels of a span of columns and a span of rows (R142). -/
theorem mem_interiorPixels {top left w h : Nat} :
    (x, y) ∈ interiorPixels top left w h ↔
      (left + 1 ≤ x ∧ x < left + 1 + (w - 2)) ∧ top + 1 ≤ y ∧ y < top + 1 + (h - 2) := by
  simp [interiorPixels, List.mem_range'_1]

/-- After a character the next cell is again one whose columns lie inside the display: a cell that would not fit wraps
(R147). -/
theorem nextCell_x_le (hwidth : 8 ≤ width) : (nextCell width x y).1 + 8 ≤ width := by
  rw [nextCell]
  split
  · omega
  · dsimp only
    omega

/-- Every cell of a string lies inside the display, since the next is tested before it is drawn and the first is given so
(R147). -/
theorem inside_of_mem_stringCells (hwidth : 8 ≤ width) {text : List Nat} (hx : x + 8 ≤ width) (hy : y + 8 ≤ height)
    {k : Cell} (hk : k ∈ stringCells width height text x y) : k.x + 8 ≤ width ∧ k.y + 8 ≤ height := by
  induction text generalizing x y with
  | nil => nomatch hk
  | cons c cs ih =>
    rcases List.mem_cons.1 hk with rfl | hk
    · exact ⟨hx, hy⟩
    · split at hk
      next => nomatch hk
      next hfits => exact ih (nextCell_x_le hwidth) (by omega) hk

/-- A string has at most one cell for each of its characters (R147). -/
theorem length_stringCells_le (width height : Nat) (text : List Nat) (x y : Nat) :
    (stringCells width height text x y).length ≤ text.length := by
  induction text generalizing x y with
  | nil => exact Nat.le_refl 0
  | cons c cs ih =>
    rw [stringCells, List.length_cons, List.length_cons]
    split
    next => exact Nat.succ_le_succ (Nat.zero_le _)
    next => exact Nat.succ_le_succ (ih _ _)

/-- The first character of a string is always drawn (R147). -/
theorem stringCells_ne_nil {text : List Nat} (h : text ≠ []) : stringCells width height text x y ≠ [] := by
  cases text with
  | nil => exact absurd rfl h
  | cons c cs => exact List.cons_ne_nil _ _

end

/-- Settles O56, by the loop of a line without height and the ranges of the interior. -/
theorem routinesAgree : Obligations.RoutinesAgree := by
  refine ⟨fun _ _ _ => linePixels_eq_hlinePixels, fun top left w h x y hw hh => ?_⟩
  rw [mem_interiorPixels]
  omega

/-- Settles O58, by induction on the text from any cell inside the display. -/
theorem stringStaysOnDisplay : Obligations.StringStaysOnDisplay := by
  intro width height text x y hwidth hx hy
  exact ⟨fun _ => inside_of_mem_stringCells hwidth hx hy, length_stringCells_le _ _ _ _ _, stringCells_ne_nil⟩

end Sys2Proof.Machine
end

section
/-! PROOF. The host that issues commands: oversized operands, what a routine fails at, and a hardware reset before and
during a command (R75, R81, R149, R181). -/

namespace Sys2Proof.Machine

section
variable {s : State} {i : Instr} {ok wait : State → HostRun} {fuel : Nat}

/-! ### The answer of a ready block -/

/-- `OK` alone has the status code 0 (R160). -/
theorem Status.code_eq_ok_iff {st : Status} : st.code = Status.ok.code ↔ st = .ok := by cases st <;> decide

/-- A command that the step taking it answers with a status other than `OK` ends the routine there (R149). -/
theorem runCommand_of_exec_raise {u : State} {st : Status} (h : s.Accepts)
    (he : exec i s.afterSample = .next (raise st u)) (hlog : u.log = s.log) (hst : st ≠ .ok)
    (ok : State → HostRun) (fuel : Nat) :
    runCommand i ok (fuel + 1) s = .failed (responseWord st 0 0#8 false) (raise st u) := by
  have hstatus : statusField (responseWord st 0 0#8 false) ≠ Status.ok.code := by
    rw [(fields_responseWord st (by decide) 0#8 false).1]
    exact mt Status.code_eq_ok_iff.1 hst
  rw [runCommand_accepts h, h.issue_eq_exec, he, raise, observe_respond s u hlog, if_neg hstatus]

/-- A command that faults in the step taking it ends the run there. -/
theorem runCommand_of_exec_fault {f : Fault} (h : s.Accepts) (he : exec i s.afterSample = .fault f)
    (ok : State → HostRun) (fuel : Nat) : runCommand i ok (fuel + 1) s = .faulted f := by
  rw [runCommand_accepts h, h.issue_eq_exec, he, observe_fault]

/-- Before a successful INIT the common checks refuse every other operation (R163). -/
theorem whenCreated_of_not_created (ha : s.allocFailed = false) (hc : s.created = false)
    (k : Host.Outcome State Fault Refusal) : whenCreated s k = .next (raise .notCreated s) := by
  simp [whenCreated, ha, hc]

/-- So each of them answers `NOT_CREATED` (R163). -/
theorem exec_of_not_created (ha : s.allocFailed = false) (hc : s.created = false) (hi : ∀ w h d, i ≠ .init w h d) :
    exec i s = .next (raise .notCreated s) := by
  cases i with
  | init w h d => exact absurd rfl (hi w h d)
  | locate x y => exact whenCreated_of_not_created ha hc _
  | setpix x y v => exact whenCreated_of_not_created ha hc _
  | getpix x y => exact whenCreated_of_not_created ha hc _
  | fill v => exact whenCreated_of_not_created ha hc _
  | sendcmd cmd => exact whenCreated_of_not_created ha hc _
  | flush => exact whenCreated_of_not_created ha hc _

/-- A pixel in range of legal latches has coordinates that fit a command word (R81). -/
theorem Cfg.Latched.fitsCoord {c : Cfg} {cap x y : Nat} (h : c.Latched cap) (hr : c.InRange x y) :
    FitsCoord x ∧ FitsCoord y := by
  obtain ⟨_, hwidth, hheight⟩ := h.geometry
  obtain ⟨hx, hy⟩ := hr
  exact ⟨by omega, by omega⟩

/-- A legal geometry fits its fields of a command word (R55, R81). -/
theorem GeometryOk.fitsGeometry {width height : Nat} (h : GeometryOk width height) : FitsGeometry width height := by
  obtain ⟨_, hwidth, hheight⟩ := h
  exact ⟨by omega, by omega⟩

/-- A pixel that fits no command word is R75's fault on a created block. -/
theorem exec_setpix_oversized {x y : Nat} (hs : Inv s) (hc : s.created = true) (hbig : 4096 ≤ x ∨ 4096 ≤ y)
    (v : Bool) : exec (.setpix x y v) s = .fault .pixelOutOfRange := by
  have hr : ¬s.cfg.InRange x y := by
    intro hr
    obtain ⟨hx, hy⟩ := (hs.latched hc).fitsCoord hr
    omega
  exact (whenCreated_pass (hs.not_allocFailed hc) hc _).trans (withPixel_of_not_inRange hr _)

/-- A geometry that fits no command word is answered `BAD_GEOMETRY` (R81, U7). -/
theorem exec_init_oversized {width height : Nat} (ha : s.allocFailed = false) (hc : s.created = false)
    (hbig : 4096 ≤ width ∨ 512 ≤ height) (addr : DevAddr) :
    exec (.init width height addr) s = .next (raise .badGeometry s) := by
  have hg : ¬GeometryOk width height := by
    intro hg
    obtain ⟨hwidth, hheight⟩ := hg.fitsGeometry
    omega
  exact execInit_of_not_geometryOk ha hc hg

/-! ### What a routine fails at -/

/-- A host that goes on as `k` says fails only at a response whose status is not `OK` (R149). -/
def FailsAtStatus (k : State → HostRun) : Prop := ∀ s w t, k s = .failed w t → statusField w ≠ Status.ok.code

/-- After a step a host fails only so, if it goes on and waits so. -/
theorem FailsAtStatus.observe {t : State} {w : CmdWord} {o : Host.Outcome State Fault Refusal} (hok : FailsAtStatus ok)
    (hwait : FailsAtStatus wait) (h : observe s o ok wait = .failed w t) : statusField w ≠ Status.ok.code := by
  cases o with
  | next u =>
    cases hw : newResponse s u with
    | none =>
      rw [observe_unanswered hw] at h
      exact hwait u w t h
    | some w' =>
      rw [observe_answered hw] at h
      split at h
      next => exact hok u w t h
      next hst =>
        obtain ⟨rfl, rfl⟩ := HostRun.failed.inj h
        exact hst
  | fault f => nomatch h
  | refused r => nomatch h

/-- A host that awaits a response fails only so, if it goes on so. -/
theorem FailsAtStatus.awaitResponse (hok : FailsAtStatus ok) (fuel : Nat) : FailsAtStatus (awaitResponse ok fuel) := by
  induction fuel with
  | zero =>
    intro s w t h
    rw [Machine.awaitResponse] at h
    nomatch h
  | succ fuel ih =>
    intro s w t h
    rw [Machine.awaitResponse] at h
    by_cases hreset : s.sampled.reset = true
    · rw [if_pos hreset] at h
      exact hok.observe (wait := .cutOff) (fun _ _ _ hcut => nomatch hcut) h
    · rw [if_neg hreset] at h
      exact hok.observe ih h

/-- A host that issues a command, however long it holds it, fails only so, if it goes on so. -/
theorem FailsAtStatus.runCommand (hok : FailsAtStatus ok) (i : Instr) (fuel : Nat) :
    FailsAtStatus (runCommand i ok fuel) := by
  induction fuel with
  | zero =>
    intro s w t h
    rw [Machine.runCommand] at h
    nomatch h
  | succ fuel ih =>
    intro s w t h
    by_cases ha : s.Accepts
    · rw [runCommand_accepts ha] at h
      exact hok.observe (hok.awaitResponse fuel) h
    · rw [Machine.runCommand, if_neg ha] at h
      split at h
      next u _ => exact ih u w t h
      next => nomatch h
      next => nomatch h

/-- A host that issues a list of commands fails at nothing else than such a response (R149). -/
theorem failsAtStatus_runHost (fuel : Nat) (is : List Instr) : FailsAtStatus (runHost fuel is) := by
  induction is with
  | nil =>
    intro s w t h
    rw [runHost_nil] at h
    nomatch h
  | cons i is ih => exact ih.runCommand i fuel

/-! ### A hardware reset -/

/-- A reset while a response is awaited cuts the command off (R181, log entry 21). -/
theorem awaitResponse_of_reset (h : s.sampled.reset = true) (ok : State → HostRun) (fuel : Nat) :
    awaitResponse ok (fuel + 1) s = .cutOff (hardwareReset s.afterSample) := by
  rw [awaitResponse, step_reset h, observe_unanswered (newResponse_of_log_nil (hardwareReset_log _)), if_pos h]

/-- A command is held over a reset, for the block that the reset leaves (R181, R186). -/
theorem runCommand_of_reset (h : s.sampled.reset = true) (i : Instr) (ok : State → HostRun) (fuel : Nat) :
    runCommand i ok (fuel + 1) s = runCommand i ok fuel (hardwareReset s.afterSample) := by
  have hheld : ¬s.Accepts := fun ha => by simp [ha.2] at h
  exact runCommand_held hheld (step_reset h) i ok fuel

/-- The block a reset leaves is ready (R180, R181). -/
theorem hardwareReset_ready (s : State) : (hardwareReset s).Ready := ⟨rfl, rfl⟩

/-- A command other than INIT that is held over a reset is answered `NOT_CREATED` by the block the reset leaves, if that
samples no second one (R163, R181, R186). -/
theorem runCommand_over_reset {a b : Inputs} {more : List Inputs} (hin : s.inputs = a :: b :: more)
    (ha : a.reset = true) (hb : b.reset = false) (hi : ∀ w h d, i ≠ .init w h d) (ok : State → HostRun) (fuel : Nat) :
    ∃ t, runCommand i ok (fuel + 2) s = .failed (responseWord .notCreated 0 0#8 false) t := by
  have hreset : s.sampled.reset = true := by simp [State.sampled, hin, ha]
  have hquiet : (hardwareReset s.afterSample).sampled.reset = false := by
    simp [State.sampled, State.afterSample, hin, hb]
  have he := exec_of_not_created (s := (hardwareReset s.afterSample).afterSample) rfl rfl hi
  exact ⟨_, (runCommand_of_reset hreset i ok (fuel + 1)).trans
    (runCommand_of_exec_raise ⟨hardwareReset_ready _, hquiet⟩ he rfl (by decide) ok fuel)⟩

end

/-- Settles O60: the moves of the host on the fault, the answer and the reset of the step it looks at. -/
theorem hostIssuesEveryCommand : Obligations.HostIssuesEveryCommand := by
  refine ⟨fun i s h => h.issue_eq_exec i, ?_, ?_, fun fuel is s t w => failsAtStatus_runHost fuel is s w t, ?_, ?_⟩
  · intro fuel x y v is s hs hc h hbig
    have hsampled : Inv s.afterSample := hs.congr rfl
    exact runCommand_of_exec_fault h (exec_setpix_oversized hsampled hc hbig v) _ fuel
  · intro fuel width height addr is s ha hc h hbig
    have he := exec_init_oversized (s := s.afterSample) ha hc hbig addr
    exact ⟨_, runCommand_of_exec_raise h he rfl (by decide) _ fuel, rfl⟩
  · intro fuel i is s a b more hin ha hb hi
    exact runCommand_over_reset hin ha hb hi _ fuel
  · intro fuel ok s hreset
    exact ⟨_, awaitResponse_of_reset hreset ok fuel, rfl, hardwareReset_ready _⟩

end Sys2Proof.Machine
end

section
/-! PROOF. The checks of a command word and the status each of them answers (R57, R160 to R168). -/

namespace Sys2Proof.Machine

section
variable {s t : State} {w : CmdWord} {rest : List CmdWord} {i : Instr} {st : Status}

/-! ### The illegal words -/

/-- The decoder rejects a word when its opcode is reserved or a bit that its format reserves is one (R57): opcode by
opcode. -/
theorem decode_eq_error_iff : (∃ e, decode w = .error e) ↔ IllegalBits w := by
  have hopc {n : Nat} (e : (opcField w).toNat = n) : (slice w 28 4).toNat = n := e
  unfold decode
  split
  next e => simp [IllegalBits, hopc e]
  next e => simp [IllegalBits, hopc e, reservedZeroPNoV, -slice_beq]
  next e => simp [IllegalBits, hopc e, reservedZeroP, -slice_beq]
  next e => simp [IllegalBits, hopc e, reservedZeroPNoV, -slice_beq]
  next e => simp [IllegalBits, hopc e, reservedZeroV, imp_iff_not_or, -slice_beq]
  next e => simp [IllegalBits, hopc e, reservedZeroB, -slice_beq]
  next e => simp [IllegalBits, hopc e, reservedZeroN, -slice_beq]
  next h1 h2 h3 h4 h5 h6 h7 =>
    have hreserved : (slice w 28 4).toNat = 0 ∨ 8 ≤ (slice w 28 4).toNat := by
      simp only [opcField, imp_false] at h1 h2 h3 h4 h5 h6 h7
      omega
    exact iff_of_true ⟨_, rfl⟩ (hreserved.imp id .inl)

/-! ### What each check answers -/

/-- A sticky allocation failure answers every operation (R161). -/
theorem exec_of_allocFailed (ha : s.allocFailed = true) (i : Instr) : exec i s = .next (raise .allocFail s) := by
  have hwhen (k : Host.Outcome State Fault Refusal) : whenCreated s k = .next (raise .allocFail s) := if_pos ha
  cases i with
  | init width height addr => exact if_pos ha
  | locate x y | setpix x y v | getpix x y | fill v | sendcmd cmd | flush => exact hwhen _

/-- INIT of a created block is refused whatever its operands (R166). -/
theorem execInit_of_created (ha : s.allocFailed = false) (hc : s.created = true) (width height : Nat)
    (addr : DevAddr) : execInit width height addr s = .next (raise .alreadyCreated s) := by
  simp [execInit, whenNotCreated, ha, hc]

/-- A check that refuses an operation answers its status and changes nothing (R161, R163, R165, R166). -/
theorem RefusedWith.exec_eq (h : RefusedWith s i st) : exec i s = .next (raise st s) := by
  cases h with
  | allocFail ha => exact exec_of_allocFailed ha i
  | notCreated ha hc hi => exact exec_of_not_created ha hc hi
  | alreadyCreated ha hc => exact execInit_of_created ha hc _ _ _
  | badGeometry ha hc hg => exact execInit_of_not_geometryOk ha hc hg

/-- The same, as the answer of the operation and the state it leaves. -/
theorem RefusedWith.exec_answers (h : RefusedWith s i st) :
    ∃ t, exec i s = .next t ∧ Answers s t st 0 0#8 false ∧ { t with log := s.log } = s :=
  ⟨_, h.exec_eq, raise_answers s st, rfl⟩

/-- The refusal that answers `ALLOC_FAIL` is that of the sticky failure (R161). -/
theorem RefusedWith.decide_allocFail (h : RefusedWith s i st) : decide (st = .allocFail) = s.allocFailed := by
  cases h <;> simp [*]

/-- Latching what `alloc_failed` holds changes nothing. -/
theorem State.setAllocFailed_same {b : Bool} (h : s.allocFailed = b) : s.setAllocFailed b = s := by
  subst h
  rfl

/-! ### The first check -/

/-- A sticky allocation failure is the first check that fires on any word (R167). -/
theorem firstCheck_of_allocFailed (ha : s.allocFailed = true) (w : CmdWord) : firstCheck s w = some .allocFail :=
  if_pos ha

/-- On an illegal word `ILLEGAL_CMD` is the first check that fires after it (R167). -/
theorem firstCheck_of_illegal (ha : s.allocFailed = false) {e : Illegal} (hd : decode w = .error e) :
    firstCheck s w = some .illegalCmd := by
  simp [firstCheck, ha, hd]

/-- A check that refuses the operation of a word is the first that fires on the word (R167). -/
theorem firstCheck_of_refused (hd : decode w = .ok i) (h : RefusedWith s i st) : firstCheck s w = some st := by
  cases h with
  | allocFail ha => exact firstCheck_of_allocFailed ha w
  | notCreated ha hc hi =>
    cases i with
    | init width height addr => exact absurd rfl (hi width height addr)
    | locate x y | setpix x y v | getpix x y | fill v | sendcmd cmd | flush => simp [firstCheck, ha, hd, hc]
  | alreadyCreated ha hc => simp [firstCheck, ha, hd, hc]
  | badGeometry ha hc hg => simp [firstCheck, ha, hd, hc, hg]

/-- On an INIT that no check refuses, the last check is whether its image fits (R167). -/
theorem firstCheck_of_legal_init {width height : Nat} {addr : DevAddr} (hd : decode w = .ok (.init width height addr))
    (ha : s.allocFailed = false) (hc : s.created = false) (hg : GeometryOk width height) :
    firstCheck s w = if s.params.maxImageLen < imageLenOf width height then some .allocFail else none := by
  simp [firstCheck, ha, hd, hc, hg, imageLenOf, pagesOf]

/-- On a created block no check fires on another operation (R167). -/
theorem firstCheck_of_created (hd : decode w = .ok i) (ha : s.allocFailed = false) (hc : s.created = true)
    (hi : ∀ w h a, i ≠ .init w h a) : firstCheck s w = none := by
  cases i with
  | init width height addr => exact absurd rfl (hi width height addr)
  | locate x y | setpix x y v | getpix x y | fill v | sendcmd cmd | flush => simp [firstCheck, ha, hd, hc]

/-- A check that fires on a legal word refuses its operation, or is that of an INIT that does not fit (R167). -/
theorem refused_or_not_fits (hd : decode w = .ok i) (h : firstCheck s w = some st) :
    RefusedWith s i st ∨ ∃ width height addr, i = .init width height addr ∧ st = .allocFail ∧
      s.allocFailed = false ∧ s.created = false ∧ GeometryOk width height ∧
      s.params.maxImageLen < imageLenOf width height := by
  have refused {st' : Status} (hr : RefusedWith s i st') : RefusedWith s i st := by
    rw [firstCheck_of_refused hd hr] at h
    exact Option.some.inj h ▸ hr
  cases ha : s.allocFailed with
  | true => exact .inl (refused (.allocFail ha))
  | false =>
    by_cases hinit : ∃ width height addr, i = .init width height addr
    · obtain ⟨width, height, addr, rfl⟩ := hinit
      cases hc : s.created with
      | true => exact .inl (refused (.alreadyCreated ha hc))
      | false =>
        by_cases hg : GeometryOk width height
        · rw [firstCheck_of_legal_init hd ha hc hg] at h
          obtain ⟨hfit, hst⟩ : s.params.maxImageLen < imageLenOf width height ∧ Status.allocFail = st := by
            simpa using h
          exact .inr ⟨width, height, addr, rfl, hst.symm, rfl, rfl, hg, hfit⟩
        · exact .inl (refused (.badGeometry ha hc hg))
    · have hi : ∀ w h a, i ≠ .init w h a := fun w h a e => hinit ⟨w, h, a, e⟩
      cases hc : s.created with
      | true => simp [firstCheck_of_created hd ha hc hi] at h
      | false => exact .inl (refused (.notCreated ha hc hi))

/-- The first check that fires decides the answer of the word: its status, with no other change than that an INIT that
does not fit latches its failure (R167). -/
theorem runWord_of_firstCheck (h : firstCheck s w = some st) :
    runWord w s = .next (raise st (s.setAllocFailed (decide (st = .allocFail)))) := by
  cases hd : decode w with
  | error e =>
    rw [runWord, hd]
    rcases rejectIllegal_eq_raise s with ⟨ha, hreject⟩ | ⟨ha, hreject⟩
    · obtain rfl : Status.allocFail = st := by simpa [firstCheck_of_allocFailed ha] using h
      simp [hreject, State.setAllocFailed_same ha]
    · obtain rfl : Status.illegalCmd = st := by simpa [firstCheck_of_illegal ha hd] using h
      simp [hreject, State.setAllocFailed_same ha]
  | ok i =>
    rw [runWord, hd]
    rcases refused_or_not_fits hd h with hr | ⟨width, height, addr, rfl, rfl, ha, hc, hg, hfit⟩
    · rw [hr.decide_allocFail, State.setAllocFailed_same rfl]
      exact hr.exec_eq
    · exact execInit_of_not_fits ha hc hg hfit

/-- Taking the word changes nothing that the checks look at. -/
theorem firstCheck_taken (s : State) (rest : List CmdWord) (w : CmdWord) :
    firstCheck (taken s rest) w = firstCheck s w := rfl

/-- So the first check decides the step of a block that takes the word (R167). -/
theorem step_of_firstCheck (htakes : Takes s w rest) (h : firstCheck s w = some st) :
    step s = .next (raise st ((taken s rest).setAllocFailed (decide (st = .allocFail)))) := by
  rw [step_of_takes htakes]
  exact runWord_of_firstCheck ((firstCheck_taken s rest w).trans h)

/-- An error response of a block that takes a word answers for the whole step: taking the word logs nothing (R150). -/
theorem raise_taken_answers (s : State) (rest : List CmdWord) (st : Status) (b : Bool) :
    Answers s (raise st ((taken s rest).setAllocFailed b)) st 0 0#8 false :=
  (raise_answers _ st).of_log_eq rfl

/-- A check that latches no new failure changes nothing but the log. -/
theorem step_of_firstCheck_frame (htakes : Takes s w rest) (h : firstCheck s w = some st)
    (hb : s.allocFailed = decide (st = .allocFail)) :
    ∃ t, step s = .next t ∧ Answers s t st 0 0#8 false ∧ { t with log := s.log } = taken s rest := by
  refine ⟨_, step_of_firstCheck htakes h, raise_taken_answers s rest st _, ?_⟩
  rw [State.setAllocFailed_same (s := taken s rest) hb]
  rfl

/-! ### No check fires -/

/-- An operation that runs on a created block answers `OK`, or answers in a later step (R150). -/
theorem Done.answers_ok (hi : i.WellFormed) (h : Done s i t) :
    t.log = s.log ∨ ∃ idx mask pix, Answers s t .ok idx mask pix := by
  cases h with
  | @locate x y _ =>
    obtain ⟨hx, hy⟩ := (wellFormed_locate x y).1 hi
    have hidx : byteIndex x y < 65536 := (byteIndex_le hx hy).trans_lt (by decide)
    exact .inr ⟨_, _, _, respond_answers s .ok hidx _ _⟩
  | setpix _ _ | getpix _ _ | fill _ => exact .inr ⟨0, _, _, (respond_answers _ .ok (by decide) _ _).of_log_eq rfl⟩
  | sendcmd => exact .inl rfl
  | flush => exact .inl (flushStart_log s)

/-- A word on which no check fires is answered `OK`, in this step or a later one (R167). -/
theorem runWord_answers_ok (h : firstCheck s w = none) (ht : runWord w s = .next t) :
    t.log = s.log ∨ ∃ idx mask pix, Answers s t .ok idx mask pix := by
  cases hd : decode w with
  | error e =>
    cases ha : s.allocFailed with
    | true => simp [firstCheck_of_allocFailed ha] at h
    | false => simp [firstCheck_of_illegal ha hd] at h
  | ok i =>
    rw [runWord, hd] at ht
    rcases exec_next_cases ht with
      ⟨st, hr, _⟩ | ⟨width, height, addr, rfl, ha, hc, hg, ⟨hfit, _⟩ | ⟨_, rfl⟩⟩ | ⟨_, _, hdone⟩
    · simp [firstCheck_of_refused hd hr] at h
    · simp [firstCheck_of_legal_init hd ha hc hg, hfit] at h
    · exact .inr ⟨0, _, _, (respond_answers _ .ok (by decide) _ _).of_log_eq rfl⟩
    · exact hdone.answers_ok (spells_of_decode hd).wellFormed

/-! ### The answer of an operation in progress -/

/-- A bus write that returns `error` is logged and answered `BUS_ERROR` (R162). -/
theorem step_log_of_error {r : CmdRequest} (hr : s.cmdReq = some r) (hreset : s.sampled.reset = false)
    (ha : s.sampled.cmdAnswer = some .error) :
    ∃ t, step s = .next t ∧ t.log = s.log ++ [.cmd r.addr r.b0 r.b1 .error, .rsp 0x20000000#32] := by
  rw [step_of_request hr hreset, ha]
  exact ⟨_, rfl, by simp [responseWord_busError]⟩

/-- An operation in progress ends with `OK`, unless its bus write returned `error` (R162, R167). -/
theorem Advanced.response_of_busy {inp : Inputs} {a : CmdWord} (hs : ¬s.Ready) (h : Advanced inp s t)
    (hlog : t.log ≠ s.log) (hlast : t.log.getLast? = some (.rsp a)) :
    (s.cmdReq ≠ none ∧ inp.cmdAnswer = some .error) ∨ a = 0x00000000#32 := by
  cases h with
  | unanswered _ _ | notReady _ _ _ _ _ | noReport _ _ _ _ => exact absurd rfl hlog
  | windowByte _ _ _ | windowDone _ _ _ | stage _ _ => exact absurd rfl hlog
  | noWord hready _ | illegal hready _ _ | run hready _ _ _ => exact absurd hready hs
  | answeredError hr ha => exact .inl ⟨by simp [hr], ha⟩
  | answeredOk _ _ =>
    by_cases hp : s.phase = .idle
    · have hword : responseWord .ok 0 0#8 false = a := by simpa [hp] using hlast
      exact .inr (hword.symm.trans responseWord_ok)
    · simp [hp] at hlast
  | arm _ _ | move _ _ _ _ _ _ | finish _ _ _ _ => simp at hlast
  | returnIdle _ _ _ _ =>
    have hword : responseWord .ok 0 0#8 false = a := by simpa using hlast
    exact .inr (hword.symm.trans responseWord_ok)

/-! ### The sticky failure -/

/-- No step without a reset clears the failure: every operation answers it and changes nothing (R161). -/
theorem Advanced.keeps_allocFailed {inp : Inputs} (ha : s.allocFailed = true) (h : Advanced inp s t) :
    t.allocFailed = true := by
  cases h with
  | @run _ rest i _ _ _ _ he =>
    rw [exec_of_allocFailed (s := s.setHostWords rest) ha i] at he
    cases he
    exact ha
  | _ => simp [ha]

end

/-- Settles O4: the illegal words by the decoder's opcodes, and the answer by the check that is the first to fire on
them. -/
theorem illegalWordAnswered : Obligations.IllegalWordAnswered := by
  refine ⟨fun w => decode_eq_error_iff, decode_eq_error_iff.1 ⟨.reservedOpcode, by decide⟩, ?_⟩
  intro s w rest htakes ha hw
  obtain ⟨e, hd⟩ := decode_eq_error_iff.2 hw
  exact step_of_firstCheck_frame htakes (firstCheck_of_illegal ha hd) ha

/-- Settles O10: the check that fires, the operations that pass every check, and the operations in progress. -/
theorem firstCheckDecides : Obligations.FirstCheckDecides := by
  intro s
  refine ⟨fun w rest st htakes h => ?_, fun w rest t htakes h ht => ?_, fun r => step_log_of_error,
    fun t w hs hreset ht hlog hlast => ?_⟩
  · exact ⟨_, step_of_firstCheck htakes h, raise_taken_answers s rest st _, rfl, rfl⟩
  · rw [step_of_takes htakes] at ht
    exact runWord_answers_ok (s := taken s rest) ((firstCheck_taken s rest w).trans h) ht
  · rcases step_next_cases ht with ⟨h, _⟩ | ⟨_, hadv⟩
    · simp [hreset] at h
    · exact Advanced.response_of_busy (s := s.afterSample) hs hadv hlog hlast

/-- Settles O11, by the refusal of every operation that finds the block not created. -/
theorem notCreatedRefused : Obligations.NotCreatedRefused :=
  fun _ _ ha hc hi => RefusedWith.exec_answers (.notCreated ha hc hi)

/-- Settles O20, by the refusal of an INIT that finds the block created. -/
theorem initTwiceRefused : Obligations.InitTwiceRefused :=
  fun _ _ _ _ ha hc => RefusedWith.exec_answers (.alreadyCreated ha hc)

/-- Settles O22: the INIT that latches the failure, the first check on every later word, and the steps that keep and
clear the latch. -/
theorem allocationFailureIsFatal : Obligations.AllocationFailureIsFatal := by
  refine ⟨fun s width height addr ha hc hg hfit => ?_, fun s w rest htakes ha => ?_, fun s t ha hreset ht => ?_,
    fun s t hreset ht => ?_⟩
  · exact ⟨_, execInit_of_not_fits ha hc hg hfit, (raise_answers _ _).of_log_eq rfl, rfl, rfl⟩
  · exact step_of_firstCheck_frame htakes (firstCheck_of_allocFailed ha w) ha
  · rcases step_next_cases ht with ⟨h, _⟩ | ⟨_, hadv⟩
    · simp [hreset] at h
    · exact Advanced.keeps_allocFailed (s := s.afterSample) ha hadv
  · rw [step_reset hreset] at ht
    cases ht
    rfl

end Sys2Proof.Machine
end

section
/-! PROOF. The hardware reset, and the command port of a block with an operation in progress (R180, R181, R186). -/

namespace Sys2Proof.Machine

section
variable {s t : State} {inp : Inputs}

/-- A block with an operation in progress takes no word: the words to come stay with the host (R186). -/
theorem Advanced.keeps_hostWords (hs : ¬s.Ready) (h : Advanced inp s t) : t.hostWords = s.hostWords := by
  cases h with
  | illegal hready _ _ | run hready _ _ _ => exact absurd hready hs
  | _ => simp

/-- A ready block takes the first word, whatever becomes of it (R150). -/
theorem Advanced.takes_word {w : CmdWord} {rest : List CmdWord} (hs : s.Ready) (hw : s.hostWords = w :: rest)
    (h : Advanced inp s t) : t.hostWords = rest := by
  obtain ⟨hp, hr⟩ := hs
  cases h with
  | noWord _ hw' => simp [hw] at hw'
  | illegal _ hw' _ =>
    obtain ⟨_, rfl⟩ := List.cons.inj (hw.symm.trans hw')
    simp
  | run _ hw' _ he =>
    obtain ⟨_, rfl⟩ := List.cons.inj (hw.symm.trans hw')
    obtain ⟨_, _, _, hwords, _⟩ := exec_unchanged he
    exact hwords
  | unanswered hr' _ | answeredOk hr' _ | answeredError hr' _ => simp [hr] at hr'
  | windowByte hp' _ _ | windowDone hp' _ _ | stage hp' _ | arm hp' _ => simp [hp] at hp'
  | move hp' _ _ _ _ _ | notReady hp' _ _ _ _ | finish hp' _ _ _ => simp [hp] at hp'
  | returnIdle hp' _ _ _ | noReport hp' _ _ _ => simp [hp] at hp'

/-- The sequencer of FLUSH does not end the operation: it asks for a bus write or begins phase Staged (R112). -/
theorem windowStep_not_ready (s : State) : ¬(windowStep s).Ready := by
  rcases windowStep_cases s with ⟨_, _, _, e⟩ | ⟨_, e⟩ <;> simp [e]

/-- An operation in progress ends in no other way than with its response (R170, R186). -/
theorem Advanced.response_of_ready (hs : ¬s.Ready) (ht : t.Ready) (h : Advanced inp s t) :
    ∃ w, t.log.getLast? = some (.rsp w) := by
  obtain ⟨hp, hr⟩ := ht
  cases h with
  | answeredError _ _ | returnIdle _ _ _ _ => exact ⟨_, List.getLast?_concat⟩
  | @answeredOk r _ _ =>
    rcases afterCmdOk_cases (cmdReturned r .ok s) with ⟨_, e⟩ | ⟨_, e⟩ | ⟨hni, _, e⟩
    · rw [e]
      exact ⟨_, List.getLast?_concat⟩
    · exact absurd ⟨e ▸ hp, e ▸ hr⟩ (windowStep_not_ready _)
    · exact absurd (e ▸ hp) hni
  | illegal hready _ _ | run hready _ _ _ => exact absurd hready hs
  | unanswered _ _ | noWord _ _ | notReady _ _ _ _ _ | noReport _ _ _ _ => exact absurd ⟨hp, hr⟩ hs
  | windowByte _ _ _ => simp at hr
  | windowDone _ _ _ | stage _ _ | arm _ _ => simp at hp
  | move hp' _ _ _ _ _ | finish hp' _ _ _ => simp [hp'] at hp

end

/-- Settles O8, by the inversion of `step`: which moves touch the words to come, and which leave the block ready. -/
theorem wordHeldWhileBusy : Obligations.WordHeldWhileBusy := by
  intro s t hreset hstep
  rcases step_next_cases hstep with ⟨h, _⟩ | ⟨_, hadv⟩
  · simp [hreset] at h
  · exact ⟨hadv.keeps_hostWords (s := s.afterSample), fun hs ht => hadv.response_of_ready (s := s.afterSample) hs ht,
      fun hs w rest hw => hadv.takes_word (s := s.afterSample) hs hw⟩

/-- Settles O44, by the state after reset for any legal parameters, those of `State.reset` among them. -/
theorem resetMeetsInvariant : Obligations.ResetMeetsInvariant := ⟨fun _ => inv_resetWith, inv_resetWith (by decide)⟩

/-- Settles O53, by the fields of the state that a step which samples a reset leaves (`hardwareReset` itself names that
state). -/
theorem hardwareResetState : Obligations.HardwareReset := by
  refine ⟨fun s hreset => ⟨_, step_reset hreset, ?_⟩, by decide⟩
  simp [Burst.atReset, State.Ready]

/-- Settles O51: the invariant fixes `image[0]` of a created block, the step keeps the invariant, and the block stays
created. -/
theorem prefixNeverChanges : Obligations.PrefixNeverChanges := by
  intro s t hs hc hreset hstep
  obtain ⟨hc', _⟩ := (latchesConstant s t hstep).2 hreset hc
  exact ⟨hs.prefixByte hc, (stepKeepsInvariant s t hs hstep).prefixByte hc'⟩

end Sys2Proof.Machine
end

section
/-! PROOF. What stops a step: nothing but a pixel that the host owed to keep in-range and in-image (R190, U1 to U3). -/

namespace Sys2Proof.Machine

/-- The operation runs, or it stops with a fault of a pixel that `duty` forbids the host to name (R75, R84, R190). -/
def RunsUnder (duty : Prop) (o : Host.Outcome State Fault Refusal) : Prop :=
  (∃ t, o = .next t) ∨ ¬duty ∧ ∃ f, o = .fault f ∧ (f = .pixelOutOfRange ∨ f = .pixelNotInImage)

section
variable {s : State} {k : Host.Outcome State Fault Refusal} {duty : Prop}

theorem runsUnder_next (t : State) : RunsUnder duty (.next t) := .inl ⟨t, rfl⟩

theorem RunsUnder.of_fault {f : Fault} (h : RunsUnder duty (.fault f)) :
    ¬duty ∧ (f = .pixelOutOfRange ∨ f = .pixelNotInImage) := by
  obtain ⟨_, ⟨⟩⟩ | ⟨hn, _, ⟨⟩, hf⟩ := h
  exact ⟨hn, hf⟩

theorem not_runsUnder_refused (r : Refusal) : ¬RunsUnder duty (.refused r) := by
  rintro (⟨_, ⟨⟩⟩ | ⟨_, _, ⟨⟩, _⟩)

/-! ### The operations -/

/-- The common checks answer for a block that is not created, so the host owes its duty to a created block alone (R163). -/
theorem RunsUnder.whenCreated (h : RunsUnder duty k) : RunsUnder (s.created = true → duty) (whenCreated s k) := by
  rcases whenCreated_cases s k with ⟨_, e⟩ | ⟨_, _, e⟩ | ⟨_, hc, e⟩ <;> rw [e]
  · exact runsUnder_next _
  · exact runsUnder_next _
  · exact h.imp id (And.imp_left fun hn hd => hn (hd hc))

/-- INIT never stops (R80). -/
theorem runsUnder_execInit (width height : Nat) (addr : DevAddr) : RunsUnder duty (execInit width height addr s) := by
  rw [execInit]
  rcases whenNotCreated_cases s _ with ⟨_, e⟩ | ⟨_, _, e⟩ | ⟨_, _, e⟩ <;> rw [e]
  · exact runsUnder_next _
  · exact runsUnder_next _
  · split
    · split <;> exact runsUnder_next _
    · exact runsUnder_next _

/-- LOCATE stops at a pixel that is not in-range (R75). -/
theorem runsUnder_execLocate (x y : Nat) :
    RunsUnder (s.created = true → s.cfg.InRange x y) (execLocate x y s) := by
  refine RunsUnder.whenCreated ?_
  split
  next => exact runsUnder_next _
  next hr => exact .inr ⟨hr, _, rfl, .inl rfl⟩

/-- An access of a pixel stops where the pixel is not in-range or not in-image (R75, R84). -/
theorem runsUnder_withPixel (x y : Nat) (t : State) :
    RunsUnder (s.cfg.InRange x y ∧ s.cfg.InImage (byteIndex x y)) (withPixel s x y (.next t)) := by
  rcases withPixel_cases s x y (.next t) with ⟨hr, e⟩ | ⟨_, hi, e⟩ | ⟨_, _, e⟩ <;> rw [e]
  · exact .inr ⟨fun hd => hr hd.1, _, rfl, .inl rfl⟩
  · exact .inr ⟨fun hd => hi hd.2, _, rfl, .inr rfl⟩
  · exact runsUnder_next t

/-- FILL stops in a geometry that is not fully addressable (R86). -/
theorem runsUnder_execFill (v : Bool) : RunsUnder (s.created = true → s.cfg.FullyAddressable) (execFill v s) := by
  refine RunsUnder.whenCreated ?_
  split
  next => exact runsUnder_next _
  next hnone =>
    refine .inr ⟨fun hfull => ?_, _, rfl, .inr rfl⟩
    have hsome := (fillPixels_pixelDomain_isSome (v := v) (m := s.image)).2 hfull
    simp [hnone] at hsome

/-- Every instruction runs, unless the host breaks its duty to a created block (R190). -/
theorem exec_runsUnder (i : Instr) (s : State) : RunsUnder (s.created = true → HostDuty s.cfg i) (exec i s) := by
  cases i with
  | init width height addr => exact runsUnder_execInit width height addr
  | locate x y => exact runsUnder_execLocate x y
  | setpix x y v | getpix x y => exact (runsUnder_withPixel x y _).whenCreated
  | fill v => exact runsUnder_execFill v
  | sendcmd cmd | flush => exact (runsUnder_next _).whenCreated

/-! ### The step -/

/-- The command channel's answer never stops the block (R101). -/
theorem channelAnswer_next (r : CmdRequest) (a : Option CmdOutcome) (s : State) : ∃ t, channelAnswer r a s = .next t := by
  rcases a with _ | _ | _ <;> exact ⟨_, rfl⟩

/-- While a transfer runs, the word the burst channel is to move next has a value (R17, R116, R122). -/
theorem Inv.staged_word (h : Inv s) (hp : s.phase = .completed) (hm : 0 < s.bc.remaining) :
    ∃ w, s.staging[s.bc.src + s.bc.pos]? = some w := by
  obtain ⟨hst, hrun, _, _⟩ := (phaseInv_completed_iff hp).1 h.phases
  have hprogress := hrun.progress
  have hlt : s.bc.src + s.bc.pos < s.staging.length := by
    rw [hst, length_frameOf, hrun.src]
    omega
  exact ⟨_, List.getElem?_eq_getElem hlt⟩

/-- No wait in phase Completed stops the block (R118, U3). -/
theorem Inv.waitStep_next (h : Inv s) (hp : s.phase = .completed) (txReady : Bool) :
    ∃ t, waitStep txReady s = .next t := by
  obtain ⟨_, hrun, _, _⟩ := (phaseInv_completed_iff hp).1 h.phases
  cases ha : s.bc.active with
  | false => exact ⟨_, waitStep_of_done ha (by simp [hrun.report, ha])⟩
  | true =>
    rcases Nat.eq_zero_or_pos s.bc.remaining with hm | hm
    · exact ⟨_, waitStep_of_all_moved ha hm⟩
    · cases txReady with
      | false => exact ⟨_, waitStep_of_not_ready ha hm⟩
      | true =>
        obtain ⟨w, hw⟩ := h.staged_word hp hm
        exact ⟨_, waitStep_of_ready ha hm hw⟩

/-- A step that does not run an instruction answers a next state (R17, R57, R103, R181). -/
theorem Inv.step_next_or_runs (h : Inv s) :
    (∃ t, step s = .next t) ∨ ∃ w rest i, Takes s w rest ∧ decode w = .ok i := by
  cases hreset : s.sampled.reset with
  | true => exact .inl ⟨_, step_reset hreset⟩
  | false =>
    cases hr : s.cmdReq with
    | some r => exact .inl (step_of_request hr hreset ▸ channelAnswer_next r _ _)
    | none =>
      cases hp : s.phase with
      | idle =>
        cases hw : s.hostWords with
        | nil => exact .inl ⟨_, State.Accepts.step_of_no_word ⟨⟨hp, hr⟩, hreset⟩ hw⟩
        | cons w rest =>
          have htakes : Takes s w rest := ⟨⟨hp, hr⟩, hreset, hw⟩
          cases hd : decode w with
          | ok i => exact .inr ⟨w, rest, i, htakes, hd⟩
          | error e => exact .inl ⟨_, by rw [step_of_takes htakes, runWord, hd]⟩
      | addressWindowSet =>
        obtain ⟨_, _, hne⟩ := (phaseInv_addressWindowSet_iff hp).1 h.phases
        exact absurd hr hne
      | staged => exact .inl ⟨_, step_staged hp hr hreset⟩
      | armed => exact .inl ⟨_, step_armed hp hr hreset⟩
      | completed =>
        have hsampled : Inv s.afterSample := h.congr rfl
        exact .inl (step_completed hp hr hreset ▸ hsampled.waitStep_next hp _)

/-- Every step of a state that meets the invariant runs, or it stops at an instruction by which the host breaks its duty
(R190). -/
theorem Inv.step_runsUnder (h : Inv s) :
    RunsUnder (∀ w rest i, Takes s w rest → decode w = .ok i → s.created = true → HostDuty s.cfg i) (step s) := by
  rcases h.step_next_or_runs with hnext | ⟨w, rest, i, htakes, hd⟩
  · exact .inl hnext
  · rw [step_of_decodes htakes hd]
    exact (exec_runsUnder i (taken s rest)).imp id (And.imp_left fun hn hduty => hn (hduty w rest i htakes hd))

end

/-- Settles O46, by the fault of the instruction in a step that stops. -/
theorem onlyPixelFaults : Obligations.OnlyPixelFaults := by
  intro s hs
  have hrun := hs.step_runsUnder
  refine ⟨fun f hf => ?_, fun r hr => ?_⟩
  · rw [hf] at hrun
    obtain ⟨hn, hpixel⟩ := hrun.of_fault
    push Not at hn
    exact ⟨hpixel, hn⟩
  · rw [hr] at hrun
    exact not_runsUnder_refused r hrun

/-- Settles O47: an instruction that stops breaks the duty of the host. -/
theorem hostDutySuffices : Obligations.HostDutySuffices := by
  intro s i _ hduty
  rcases exec_runsUnder i s with hnext | ⟨hn, _⟩
  · exact hnext
  · exact absurd (fun _ => hduty) hn

end Sys2Proof.Machine
end
